-- ==== Sys2Proof/Word.lean ====
section
/-! DEFINITION. The words of the machine (spec/00_scope.md R10, R12): bytes, 16-bit words, and the low and high
byte of a word. -/

namespace Sys2Proof

/-- One byte: an 8-bit register view, an immediate byte, a memory cell. -/
abbrev Byte := BitVec 8

/-- One word: a general, segment or instruction-pointer register, an offset, an immediate word (`XLEN = 16`). -/
abbrev Word := BitVec 16

/-- The word whose low byte is `lo` and whose high byte is `hi` (20_memory.md R63, little-endian). -/
def Word.ofBytes (lo hi : Byte) : Word := hi ++ lo

/-- Bits 7 to 0 of a word. -/
def Word.lo (v : BitVec 16) : Byte := v.extractLsb' 0 8

/-- Bits 15 to 8 of a word. -/
def Word.hi (v : BitVec 16) : Byte := v.extractLsb' 8 8

end Sys2Proof
end

