-- ==== Sys2Proof/Config.lean ====
section
/-! DEFINITION. What an implementation fixes (spec/00_scope.md R10) and the free values the spec leaves open.
The free value of a host handler, `Config.hostService`, needs the state's types and stands in Machine/State.lean. -/

namespace Sys2Proof.Config

/-- `MAX_PREFIX`: the most prefix bytes one instruction may carry (00_scope.md R10, 30_encoding.md R90). -/
def maxPrefix : Nat := 14

/-- `FLAGS_FIXED`: the bits of the FLAGS image that hold no flag (00_scope.md R10, 10_state.md R31). -/
def flagsFixed : Word := 0xF002#16

/-- `ISA_186`: the value of the parameter at `State.reset`, the spec's default (00_scope.md R10, 46_ext186.md R380).
DESIGN CHOICE, log entry 2: the parameter itself is the State field `isa186`, so both machines are covered. -/
def isa186Default : Bool := false

/-- What a memory byte that nothing has written reads as.
DESIGN CHOICE, log entry 1: 70_reset_and_hazards.md R455 leaves the initial memory to the platform. -/
def unwritten : Byte := 0#8

/-- The number of bytes of the memory, `2 ^ PA_BITS` (00_scope.md R5, R10). -/
def memSize : Nat := 0x100000

/-- FREE VALUE (10_state.md R38): the `n`-th draw of an undefined flag.
No body: nothing can be proved of it (log entry 4). -/
opaque freeFlag : Nat → Bool

/-- FREE VALUE (00_scope.md R6): what the `n`-th draw answers to `IoRead(port, 1)` (log entry 6). -/
opaque ioRead8 : Nat → Word → Byte

/-- FREE VALUE (00_scope.md R6): what the `n`-th draw answers to `IoRead(port, 2)` (log entry 6). -/
opaque ioRead16 : Nat → Word → Word

end Sys2Proof.Config
end

