-- ==== Sys2Proof/Syntax.lean ====
section
/-! DEFINITION. The instructions as data (spec/30_encoding.md): registers by name, the operand forms, and one
constructor of `Instr` per mnemonic of spec/opcode_table.json. Immediates, displacements and offsets stand as they
are encoded; the machine widens them (R106, R107). -/

namespace Sys2Proof

/-- The eight 16-bit general registers, in the order of their numbers 0 to 7 (10_state.md R20). -/
inductive Reg16 where
  | ax | cx | dx | bx | sp | bp | si | di
deriving DecidableEq, Repr

/-- The eight 8-bit views, in the order of their numbers 0 to 7 (10_state.md R22). -/
inductive Reg8 where
  | al | cl | dl | bl | ah | ch | dh | bh
deriving DecidableEq, Repr

/-- The four segment registers, in the order of their numbers 0 to 3 (10_state.md R26). -/
inductive SReg where
  | es | cs | ss | ds
deriving DecidableEq, Repr

/-- The base and index registers of an effective address, in the order of the `rm` codes 0 to 7 (30_encoding.md R102). -/
inductive EABase where
  | bxsi | bxdi | bpsi | bpdi | si | di | bp | bx
deriving DecidableEq, Repr

/-- The memory forms of R102, with the displacement as encoded (R103).
`base` is `mod` = 0 without displacement (not for `bp`, whose code names `direct`), `direct` is `mod` = 0 with
`rm` = 6, `disp8` is `mod` = 1, `disp16` is `mod` = 2. -/
inductive MemForm where
  | base (b : EABase)
  | direct (disp : Word)
  | disp8 (b : EABase) (d : Byte)
  | disp16 (b : EABase) (d : Word)
deriving DecidableEq, Repr

/-- The `rm` operand: a register of the instruction's width (R101) or memory (R102). -/
inductive RM (R : Type) where
  | reg (r : R)
  | mem (m : MemForm)
deriving DecidableEq, Repr

/-- An 8-bit `rm` operand. -/
abbrev Eb := RM Reg8

/-- A 16-bit `rm` operand. -/
abbrev Ew := RM Reg16

/-- The two kinds of repeat (30_encoding.md R94): `repne` is byte F2, `rep` is byte F3. -/
inductive Rep where
  | repne | rep
deriving DecidableEq, Repr

/-- The instructions, one constructor per mnemonic of spec/opcode_table.json.
`e` is an `rm` operand, `g` a register named by the `reg` field, `r` a register in the opcode byte, `m` an operand
that must be memory, `b` and `w` an immediate byte and word, `d` a displacement, `off` and `sel` a far pointer. -/
inductive Instr where
  -- ADD: the nine forms of R140, R141
  | addEbGb (e : Eb) (g : Reg8) | addEwGw (e : Ew) (g : Reg16) | addGbEb (g : Reg8) (e : Eb)
  | addGwEw (g : Reg16) (e : Ew) | addAlIb (b : Byte) | addAxIw (w : Word) | addEbIb (e : Eb) (b : Byte)
  | addEwIw (e : Ew) (w : Word) | addEwIb (e : Ew) (b : Byte)
  -- OR: the nine forms of R140, R191
  | orEbGb (e : Eb) (g : Reg8) | orEwGw (e : Ew) (g : Reg16) | orGbEb (g : Reg8) (e : Eb)
  | orGwEw (g : Reg16) (e : Ew) | orAlIb (b : Byte) | orAxIw (w : Word) | orEbIb (e : Eb) (b : Byte)
  | orEwIw (e : Ew) (w : Word) | orEwIb (e : Ew) (b : Byte)
  -- ADC: the nine forms of R140, R142
  | adcEbGb (e : Eb) (g : Reg8) | adcEwGw (e : Ew) (g : Reg16) | adcGbEb (g : Reg8) (e : Eb)
  | adcGwEw (g : Reg16) (e : Ew) | adcAlIb (b : Byte) | adcAxIw (w : Word) | adcEbIb (e : Eb) (b : Byte)
  | adcEwIw (e : Ew) (w : Word) | adcEwIb (e : Ew) (b : Byte)
  -- SBB: the nine forms of R140, R144
  | sbbEbGb (e : Eb) (g : Reg8) | sbbEwGw (e : Ew) (g : Reg16) | sbbGbEb (g : Reg8) (e : Eb)
  | sbbGwEw (g : Reg16) (e : Ew) | sbbAlIb (b : Byte) | sbbAxIw (w : Word) | sbbEbIb (e : Eb) (b : Byte)
  | sbbEwIw (e : Ew) (w : Word) | sbbEwIb (e : Ew) (b : Byte)
  -- AND: the nine forms of R140, R190
  | andEbGb (e : Eb) (g : Reg8) | andEwGw (e : Ew) (g : Reg16) | andGbEb (g : Reg8) (e : Eb)
  | andGwEw (g : Reg16) (e : Ew) | andAlIb (b : Byte) | andAxIw (w : Word) | andEbIb (e : Eb) (b : Byte)
  | andEwIw (e : Ew) (w : Word) | andEwIb (e : Ew) (b : Byte)
  -- SUB: the nine forms of R140, R143
  | subEbGb (e : Eb) (g : Reg8) | subEwGw (e : Ew) (g : Reg16) | subGbEb (g : Reg8) (e : Eb)
  | subGwEw (g : Reg16) (e : Ew) | subAlIb (b : Byte) | subAxIw (w : Word) | subEbIb (e : Eb) (b : Byte)
  | subEwIw (e : Ew) (w : Word) | subEwIb (e : Ew) (b : Byte)
  -- XOR: the nine forms of R140, R192
  | xorEbGb (e : Eb) (g : Reg8) | xorEwGw (e : Ew) (g : Reg16) | xorGbEb (g : Reg8) (e : Eb)
  | xorGwEw (g : Reg16) (e : Ew) | xorAlIb (b : Byte) | xorAxIw (w : Word) | xorEbIb (e : Eb) (b : Byte)
  | xorEwIw (e : Ew) (w : Word) | xorEwIb (e : Ew) (b : Byte)
  -- CMP: the nine forms of R140, R145
  | cmpEbGb (e : Eb) (g : Reg8) | cmpEwGw (e : Ew) (g : Reg16) | cmpGbEb (g : Reg8) (e : Eb)
  | cmpGwEw (g : Reg16) (e : Ew) | cmpAlIb (b : Byte) | cmpAxIw (w : Word) | cmpEbIb (e : Eb) (b : Byte)
  | cmpEwIw (e : Ew) (w : Word) | cmpEwIb (e : Ew) (b : Byte)
  -- INC, DEC (R148, R149), NEG (R150), MUL, IMUL, DIV, IDIV (R152 to R155)
  | incR16 (r : Reg16) | incEb (e : Eb) | incEw (e : Ew) | decR16 (r : Reg16) | decEb (e : Eb) | decEw (e : Ew)
  | negEb (e : Eb) | negEw (e : Ew) | mulEb (e : Eb) | mulEw (e : Ew) | imulEb (e : Eb) | imulEw (e : Ew)
  | divEb (e : Eb) | divEw (e : Ew) | idivEb (e : Eb) | idivEw (e : Ew)
  -- CBW, CWD (R157, R158) and the decimal adjusts (R160 to R165)
  | aamIb (b : Byte) | aadIb (b : Byte)
  -- TEST (R193) and NOT (R194)
  | testEbGb (e : Eb) (g : Reg8) | testEwGw (e : Ew) (g : Reg16) | testAlIb (b : Byte) | testAxIw (w : Word)
  | testEbIb (e : Eb) (b : Byte) | testEwIw (e : Ew) (w : Word) | notEb (e : Eb) | notEw (e : Ew)
  -- ROL by 1, by CL, by ib under ISA_186 (R198, R389; R203)
  | rolEb1 (e : Eb) | rolEw1 (e : Ew) | rolEbCl (e : Eb) | rolEwCl (e : Ew) | rolEbIb (e : Eb) (b : Byte)
  | rolEwIb (e : Ew) (b : Byte)
  -- ROR by 1, by CL, by ib under ISA_186 (R198, R389; R204)
  | rorEb1 (e : Eb) | rorEw1 (e : Ew) | rorEbCl (e : Eb) | rorEwCl (e : Ew) | rorEbIb (e : Eb) (b : Byte)
  | rorEwIb (e : Ew) (b : Byte)
  -- RCL by 1, by CL, by ib under ISA_186 (R198, R389; R205)
  | rclEb1 (e : Eb) | rclEw1 (e : Ew) | rclEbCl (e : Eb) | rclEwCl (e : Ew) | rclEbIb (e : Eb) (b : Byte)
  | rclEwIb (e : Ew) (b : Byte)
  -- RCR by 1, by CL, by ib under ISA_186 (R198, R389; R206)
  | rcrEb1 (e : Eb) | rcrEw1 (e : Ew) | rcrEbCl (e : Eb) | rcrEwCl (e : Ew) | rcrEbIb (e : Eb) (b : Byte)
  | rcrEwIb (e : Ew) (b : Byte)
  -- SHL by 1, by CL, by ib under ISA_186 (R198, R389; R200)
  | shlEb1 (e : Eb) | shlEw1 (e : Ew) | shlEbCl (e : Eb) | shlEwCl (e : Ew) | shlEbIb (e : Eb) (b : Byte)
  | shlEwIb (e : Ew) (b : Byte)
  -- SHR by 1, by CL, by ib under ISA_186 (R198, R389; R201)
  | shrEb1 (e : Eb) | shrEw1 (e : Ew) | shrEbCl (e : Eb) | shrEwCl (e : Ew) | shrEbIb (e : Eb) (b : Byte)
  | shrEwIb (e : Ew) (b : Byte)
  -- SAR by 1, by CL, by ib under ISA_186 (R198, R389; R202)
  | sarEb1 (e : Eb) | sarEw1 (e : Ew) | sarEbCl (e : Eb) | sarEwCl (e : Ew) | sarEbIb (e : Eb) (b : Byte)
  | sarEwIb (e : Ew) (b : Byte)
  -- MOV (R220 to R225)
  | movEbGb (e : Eb) (g : Reg8) | movEwGw (e : Ew) (g : Reg16) | movGbEb (g : Reg8) (e : Eb)
  | movGwEw (g : Reg16) (e : Ew) | movEbIb (e : Eb) (b : Byte) | movEwIw (e : Ew) (w : Word)
  | movR8Ib (r : Reg8) (b : Byte) | movR16Iw (r : Reg16) (w : Word) | movAlMoffs (off : Word)
  | movAxMoffs (off : Word) | movMoffsAl (off : Word) | movMoffsAx (off : Word) | movEwSw (e : Ew) (sr : SReg)
  | movEsEw (e : Ew) | movSsEw (e : Ew) | movDsEw (e : Ew)
  -- PUSH and POP (R228 to R233)
  | pushR16 (r : Reg16) | pushEw (e : Ew) | popR16 (r : Reg16) | popEw (e : Ew)
  -- XCHG (R236, R237), XLAT (R238), LEA, LDS, LES (R240 to R242)
  | xchgEbGb (e : Eb) (g : Reg8) | xchgEwGw (e : Ew) (g : Reg16) | leaGwM (g : Reg16) (m : MemForm)
  | ldsGwM (g : Reg16) (m : MemForm) | lesGwM (g : Reg16) (m : MemForm)
  -- Flag transfers (R245 to R248) and port input and output (R250, R251)
  | inAlIb (b : Byte) | inAxIb (b : Byte) | outIbAl (b : Byte) | outIbAx (b : Byte)
  -- Jumps, calls and returns (R270 to R284)
  | jmpCb (d : Byte) | jmpCw (d : Word) | jmpEw (e : Ew) | jmpFar (off : Word) (sel : Word) | jmpM (m : MemForm)
  | callCw (d : Word) | callEw (e : Ew) | callFar (off : Word) (sel : Word) | callM (m : MemForm) | retIw (w : Word)
  | retfIw (w : Word)
  -- Jcc (R286)
  | jo (d : Byte) | jno (d : Byte) | jb (d : Byte) | jnb (d : Byte) | je (d : Byte) | jne (d : Byte) | jbe (d : Byte)
  | ja (d : Byte) | js (d : Byte) | jns (d : Byte) | jp (d : Byte) | jnp (d : Byte) | jl (d : Byte) | jge (d : Byte)
  | jle (d : Byte) | jg (d : Byte)
  -- Loops (R288 to R291), software interrupts and IRET (R295 to R300)
  | loop (d : Byte) | loope (d : Byte) | loopne (d : Byte) | jcxz (d : Byte) | intIb (b : Byte)
  -- Flag and processor control (R350 to R360)
  | esc (op : BitVec 3) (reg : BitVec 3) (e : Ew)
  -- Invalid (R127, R365): `raw` is the bytes the decoder consumed, printed DB or DW
  | invalid (raw : List Byte)
  -- The 80186 additions (R381 to R391; the shifts by ib stand above)
  | boundGwM (g : Reg16) (m : MemForm) | pushIw (w : Word) | pushIb (b : Byte)
  | imulGwEwIw (g : Reg16) (e : Ew) (w : Word) | imulGwEwIb (g : Reg16) (e : Ew) (b : Byte)
  | enterIwIb (size : Word) (level : Byte)
  -- From here on the constructors without operands, in the same order of families (Lean's runtime wants those with
  -- fields among the first 244).
  -- CBW, CWD (R157, R158) and the decimal adjusts (R160 to R165)
  | cbw | cwd | daa | das | aaa | aas
  -- PUSH and POP (R228 to R233)
  | pushEs | pushCs | pushSs | pushDs | popEs | popSs | popDs
  -- XCHG (R236, R237), XLAT (R238), LEA, LDS, LES (R240 to R242)
  | xchgAxCx | xchgAxDx | xchgAxBx | xchgAxSp | xchgAxBp | xchgAxSi | xchgAxDi | xlat
  -- Flag transfers (R245 to R248) and port input and output (R250, R251)
  | lahf | sahf | pushf | popf | inAlDx | inAxDx | outDxAl | outDxAx
  -- Jumps, calls and returns (R270 to R284)
  | ret | retf
  -- Loops (R288 to R291), software interrupts and IRET (R295 to R300)
  | int3 | into | iret
  -- String instructions (R320 to R325)
  | movsb | movsw | lodsb | lodsw | cmpsb | cmpsw | scasb | scasw | stosb | stosw
  -- Flag and processor control (R350 to R360)
  | clc | stc | cmc | cld | std | cli | sti | nop | hlt | wait
  -- Prefix bytes (R94 to R96): rows of their own in the table, run by the step before the instruction they precede
  | segEs | segCs | segSs | segDs | lock | repne | rep
  -- The 80186 additions (R381 to R391; the shifts by ib stand above)
  | pusha | popa | insb | insw | outsb | outsw | leave
deriving DecidableEq, Repr

/-- The seven bytes that stand before an opcode (30_encoding.md R94). -/
inductive Prefix where
  | es | cs | ss | ds | lock | repne | rep
deriving DecidableEq, Repr

/-- The row of the opcode table that a byte of R94 is. -/
def Prefix.instr : Prefix → Instr
  | .es => .segEs
  | .cs => .segCs
  | .ss => .segSs
  | .ds => .segDs
  | .lock => .lock
  | .repne => .repne
  | .rep => .rep

/-- One whole instruction as the decoder delivers it (30_encoding.md R90): the bytes of R94 before the opcode, first
one first, and the instruction they precede. -/
structure Decoded where
  prefixes : List Prefix
  op : Instr
deriving DecidableEq, Repr

end Sys2Proof
end

