-- ==== Sys2Proof/WellFormed.lean ====
section
/-! DEFINITION. Which terms of `Instr` some bytes encode, for either value of the parameter `ISA_186`
(spec/30_encoding.md R102, R127; 46_ext186.md R380). The list of R127 is written here from the rule's own table, apart
from the decoder. -/

namespace Sys2Proof

/-- One of the 24 forms of R102: with `mod` = 0 the code of `bp` names `direct`, so there is no `[BP]` form. -/
def MemForm.wf : MemForm → Bool
  | .base b => b != .bp
  | .direct _ => true
  | .disp8 _ _ => true
  | .disp16 _ _ => true

/-- An `rm` operand is well formed when its memory form is. -/
def RM.wf {R : Type} : RM R → Bool
  | .reg _ => true
  | .mem m => m.wf

/-- The seven bytes of R94. -/
def isPrefixByte (b : Byte) : Bool :=
  b == 0x26#8 || b == 0x2E#8 || b == 0x36#8 || b == 0x3E#8 || b == 0xF0#8 || b == 0xF2#8 || b == 0xF3#8

/-- The one-byte entries of R127. -/
def invalidOpcode (isa186 : Bool) (op : Byte) : Bool :=
  [0x0F#8, 0x63#8, 0x64#8, 0x65#8, 0x66#8, 0x67#8, 0xD6#8, 0xF1#8].contains op
    || (!isa186 && (op.extractLsb' 4 4 == 6#4 || [0xC0#8, 0xC1#8, 0xC8#8, 0xC9#8].contains op))

/-- The two-byte entries of R127: an opcode and the ModRM byte that makes it invalid. -/
def invalidModRM (isa186 : Bool) (op modrm : Byte) : Bool :=
  let mod := modrm.extractLsb' 6 2
  let reg := modrm.extractLsb' 3 3
  (op == 0x8C#8 && [4#3, 5#3, 6#3, 7#3].contains reg)
    || (op == 0x8E#8 && [1#3, 4#3, 5#3, 6#3, 7#3].contains reg)
    || ([0x8D#8, 0xC4#8, 0xC5#8].contains op && mod == 3#2)
    || (isa186 && op == 0x62#8 && mod == 3#2)
    || ([0x8F#8, 0xC6#8, 0xC7#8].contains op && reg != 0#3)
    || ([0xD0#8, 0xD1#8, 0xD2#8, 0xD3#8].contains op && reg == 6#3)
    || (isa186 && [0xC0#8, 0xC1#8].contains op && reg == 6#3)
    || ([0xF6#8, 0xF7#8].contains op && reg == 1#3)
    || (op == 0xFE#8 && [2#3, 3#3, 4#3, 5#3, 6#3, 7#3].contains reg)
    || (op == 0xFF#8 && reg == 7#3)
    || (op == 0xFF#8 && [3#3, 5#3].contains reg && mod == 3#2)

/-- The last entry of R127: `MAX_PREFIX` + 1 bytes of R94 in a row, all consumed. -/
def runawayRaw (raw : List Byte) : Bool :=
  raw.length == Config.maxPrefix + 1 && raw.all isPrefixByte

/-- The bytes that decode to `Invalid`, as R127 lists them (the bytes of R94 before an invalid opcode not counted). -/
def invalidRaw (isa186 : Bool) (raw : List Byte) : Bool :=
  match raw with
  | [op] => invalidOpcode isa186 op
  | [op, modrm] => invalidModRM isa186 op modrm
  | _ => runawayRaw raw

/-- Is it one of the seven rows of R94, which stand before an opcode? -/
def Instr.isPrefix : Instr → Bool
  | .segEs | .segCs | .segSs | .segDs | .lock | .repne | .rep => true
  | .addEbGb _ _ | .addEwGw _ _ | .addGbEb _ _ | .addGwEw _ _ | .addAlIb _ | .addAxIw _ | .addEbIb _ _
  | .addEwIw _ _ | .addEwIb _ _ | .orEbGb _ _ | .orEwGw _ _ | .orGbEb _ _ | .orGwEw _ _ | .orAlIb _ | .orAxIw _
  | .orEbIb _ _ | .orEwIw _ _ | .orEwIb _ _ | .adcEbGb _ _ | .adcEwGw _ _ | .adcGbEb _ _ | .adcGwEw _ _
  | .adcAlIb _ | .adcAxIw _ | .adcEbIb _ _ | .adcEwIw _ _ | .adcEwIb _ _ | .sbbEbGb _ _ | .sbbEwGw _ _
  | .sbbGbEb _ _ | .sbbGwEw _ _ | .sbbAlIb _ | .sbbAxIw _ | .sbbEbIb _ _ | .sbbEwIw _ _ | .sbbEwIb _ _
  | .andEbGb _ _ | .andEwGw _ _ | .andGbEb _ _ | .andGwEw _ _ | .andAlIb _ | .andAxIw _ | .andEbIb _ _
  | .andEwIw _ _ | .andEwIb _ _ | .subEbGb _ _ | .subEwGw _ _ | .subGbEb _ _ | .subGwEw _ _ | .subAlIb _
  | .subAxIw _ | .subEbIb _ _ | .subEwIw _ _ | .subEwIb _ _ | .xorEbGb _ _ | .xorEwGw _ _ | .xorGbEb _ _
  | .xorGwEw _ _ | .xorAlIb _ | .xorAxIw _ | .xorEbIb _ _ | .xorEwIw _ _ | .xorEwIb _ _ | .cmpEbGb _ _
  | .cmpEwGw _ _ | .cmpGbEb _ _ | .cmpGwEw _ _ | .cmpAlIb _ | .cmpAxIw _ | .cmpEbIb _ _ | .cmpEwIw _ _
  | .cmpEwIb _ _ | .incR16 _ | .incEb _ | .incEw _ | .decR16 _ | .decEb _ | .decEw _ | .negEb _ | .negEw _
  | .mulEb _ | .mulEw _ | .imulEb _ | .imulEw _ | .divEb _ | .divEw _ | .idivEb _ | .idivEw _ | .cbw | .cwd | .daa
  | .das | .aaa | .aas | .aamIb _ | .aadIb _ | .testEbGb _ _ | .testEwGw _ _ | .testAlIb _ | .testAxIw _
  | .testEbIb _ _ | .testEwIw _ _ | .notEb _ | .notEw _ | .rolEb1 _ | .rolEw1 _ | .rolEbCl _ | .rolEwCl _
  | .rolEbIb _ _ | .rolEwIb _ _ | .rorEb1 _ | .rorEw1 _ | .rorEbCl _ | .rorEwCl _ | .rorEbIb _ _ | .rorEwIb _ _
  | .rclEb1 _ | .rclEw1 _ | .rclEbCl _ | .rclEwCl _ | .rclEbIb _ _ | .rclEwIb _ _ | .rcrEb1 _ | .rcrEw1 _
  | .rcrEbCl _ | .rcrEwCl _ | .rcrEbIb _ _ | .rcrEwIb _ _ | .shlEb1 _ | .shlEw1 _ | .shlEbCl _ | .shlEwCl _
  | .shlEbIb _ _ | .shlEwIb _ _ | .shrEb1 _ | .shrEw1 _ | .shrEbCl _ | .shrEwCl _ | .shrEbIb _ _ | .shrEwIb _ _
  | .sarEb1 _ | .sarEw1 _ | .sarEbCl _ | .sarEwCl _ | .sarEbIb _ _ | .sarEwIb _ _ | .movEbGb _ _ | .movEwGw _ _
  | .movGbEb _ _ | .movGwEw _ _ | .movEbIb _ _ | .movEwIw _ _ | .movR8Ib _ _ | .movR16Iw _ _ | .movAlMoffs _
  | .movAxMoffs _ | .movMoffsAl _ | .movMoffsAx _ | .movEwSw _ _ | .movEsEw _ | .movSsEw _ | .movDsEw _
  | .pushR16 _ | .pushEw _ | .pushEs | .pushCs | .pushSs | .pushDs | .popR16 _ | .popEw _ | .popEs | .popSs
  | .popDs | .xchgEbGb _ _ | .xchgEwGw _ _ | .xchgAxCx | .xchgAxDx | .xchgAxBx | .xchgAxSp | .xchgAxBp | .xchgAxSi
  | .xchgAxDi | .xlat | .leaGwM _ _ | .ldsGwM _ _ | .lesGwM _ _ | .lahf | .sahf | .pushf | .popf | .inAlIb _
  | .inAxIb _ | .inAlDx | .inAxDx | .outIbAl _ | .outIbAx _ | .outDxAl | .outDxAx | .jmpCb _ | .jmpCw _ | .jmpEw _
  | .jmpFar _ _ | .jmpM _ | .callCw _ | .callEw _ | .callFar _ _ | .callM _ | .ret | .retIw _ | .retf | .retfIw _
  | .jo _ | .jno _ | .jb _ | .jnb _ | .je _ | .jne _ | .jbe _ | .ja _ | .js _ | .jns _ | .jp _ | .jnp _ | .jl _
  | .jge _ | .jle _ | .jg _ | .loop _ | .loope _ | .loopne _ | .jcxz _ | .intIb _ | .int3 | .into | .iret | .movsb
  | .movsw | .lodsb | .lodsw | .cmpsb | .cmpsw | .scasb | .scasw | .stosb | .stosw | .clc | .stc | .cmc | .cld
  | .std | .cli | .sti | .nop | .hlt | .wait | .esc _ _ _ | .invalid _ | .pusha | .popa | .boundGwM _ _ | .pushIw _
  | .pushIb _ | .imulGwEwIw _ _ _ | .imulGwEwIb _ _ _ | .insb | .insw | .outsb | .outsw | .enterIwIb _ _ | .leave => false

/-- Is it an encoding that exists only under `ISA_186` (46_ext186.md R380, opcode_table.json `isa` = "186")? -/
def Instr.is186 : Instr → Bool
  | .rolEbIb _ _ | .rolEwIb _ _ | .rorEbIb _ _ | .rorEwIb _ _ | .rclEbIb _ _ | .rclEwIb _ _ | .rcrEbIb _ _
  | .rcrEwIb _ _ | .shlEbIb _ _ | .shlEwIb _ _ | .shrEbIb _ _ | .shrEwIb _ _ | .sarEbIb _ _ | .sarEwIb _ _ | .pusha
  | .popa | .boundGwM _ _ | .pushIw _ | .pushIb _ | .imulGwEwIw _ _ _ | .imulGwEwIb _ _ _ | .insb | .insw | .outsb
  | .outsw | .enterIwIb _ _ | .leave => true
  | .addEbGb _ _ | .addEwGw _ _ | .addGbEb _ _ | .addGwEw _ _ | .addAlIb _ | .addAxIw _ | .addEbIb _ _
  | .addEwIw _ _ | .addEwIb _ _ | .orEbGb _ _ | .orEwGw _ _ | .orGbEb _ _ | .orGwEw _ _ | .orAlIb _ | .orAxIw _
  | .orEbIb _ _ | .orEwIw _ _ | .orEwIb _ _ | .adcEbGb _ _ | .adcEwGw _ _ | .adcGbEb _ _ | .adcGwEw _ _
  | .adcAlIb _ | .adcAxIw _ | .adcEbIb _ _ | .adcEwIw _ _ | .adcEwIb _ _ | .sbbEbGb _ _ | .sbbEwGw _ _
  | .sbbGbEb _ _ | .sbbGwEw _ _ | .sbbAlIb _ | .sbbAxIw _ | .sbbEbIb _ _ | .sbbEwIw _ _ | .sbbEwIb _ _
  | .andEbGb _ _ | .andEwGw _ _ | .andGbEb _ _ | .andGwEw _ _ | .andAlIb _ | .andAxIw _ | .andEbIb _ _
  | .andEwIw _ _ | .andEwIb _ _ | .subEbGb _ _ | .subEwGw _ _ | .subGbEb _ _ | .subGwEw _ _ | .subAlIb _
  | .subAxIw _ | .subEbIb _ _ | .subEwIw _ _ | .subEwIb _ _ | .xorEbGb _ _ | .xorEwGw _ _ | .xorGbEb _ _
  | .xorGwEw _ _ | .xorAlIb _ | .xorAxIw _ | .xorEbIb _ _ | .xorEwIw _ _ | .xorEwIb _ _ | .cmpEbGb _ _
  | .cmpEwGw _ _ | .cmpGbEb _ _ | .cmpGwEw _ _ | .cmpAlIb _ | .cmpAxIw _ | .cmpEbIb _ _ | .cmpEwIw _ _
  | .cmpEwIb _ _ | .incR16 _ | .incEb _ | .incEw _ | .decR16 _ | .decEb _ | .decEw _ | .negEb _ | .negEw _
  | .mulEb _ | .mulEw _ | .imulEb _ | .imulEw _ | .divEb _ | .divEw _ | .idivEb _ | .idivEw _ | .cbw | .cwd | .daa
  | .das | .aaa | .aas | .aamIb _ | .aadIb _ | .testEbGb _ _ | .testEwGw _ _ | .testAlIb _ | .testAxIw _
  | .testEbIb _ _ | .testEwIw _ _ | .notEb _ | .notEw _ | .rolEb1 _ | .rolEw1 _ | .rolEbCl _ | .rolEwCl _
  | .rorEb1 _ | .rorEw1 _ | .rorEbCl _ | .rorEwCl _ | .rclEb1 _ | .rclEw1 _ | .rclEbCl _ | .rclEwCl _ | .rcrEb1 _
  | .rcrEw1 _ | .rcrEbCl _ | .rcrEwCl _ | .shlEb1 _ | .shlEw1 _ | .shlEbCl _ | .shlEwCl _ | .shrEb1 _ | .shrEw1 _
  | .shrEbCl _ | .shrEwCl _ | .sarEb1 _ | .sarEw1 _ | .sarEbCl _ | .sarEwCl _ | .movEbGb _ _ | .movEwGw _ _
  | .movGbEb _ _ | .movGwEw _ _ | .movEbIb _ _ | .movEwIw _ _ | .movR8Ib _ _ | .movR16Iw _ _ | .movAlMoffs _
  | .movAxMoffs _ | .movMoffsAl _ | .movMoffsAx _ | .movEwSw _ _ | .movEsEw _ | .movSsEw _ | .movDsEw _
  | .pushR16 _ | .pushEw _ | .pushEs | .pushCs | .pushSs | .pushDs | .popR16 _ | .popEw _ | .popEs | .popSs
  | .popDs | .xchgEbGb _ _ | .xchgEwGw _ _ | .xchgAxCx | .xchgAxDx | .xchgAxBx | .xchgAxSp | .xchgAxBp | .xchgAxSi
  | .xchgAxDi | .xlat | .leaGwM _ _ | .ldsGwM _ _ | .lesGwM _ _ | .lahf | .sahf | .pushf | .popf | .inAlIb _
  | .inAxIb _ | .inAlDx | .inAxDx | .outIbAl _ | .outIbAx _ | .outDxAl | .outDxAx | .jmpCb _ | .jmpCw _ | .jmpEw _
  | .jmpFar _ _ | .jmpM _ | .callCw _ | .callEw _ | .callFar _ _ | .callM _ | .ret | .retIw _ | .retf | .retfIw _
  | .jo _ | .jno _ | .jb _ | .jnb _ | .je _ | .jne _ | .jbe _ | .ja _ | .js _ | .jns _ | .jp _ | .jnp _ | .jl _
  | .jge _ | .jle _ | .jg _ | .loop _ | .loope _ | .loopne _ | .jcxz _ | .intIb _ | .int3 | .into | .iret | .movsb
  | .movsw | .lodsb | .lodsw | .cmpsb | .cmpsw | .scasb | .scasw | .stosb | .stosw | .clc | .stc | .cmc | .cld
  | .std | .cli | .sti | .nop | .hlt | .wait | .esc _ _ _ | .segEs | .segCs | .segSs | .segDs | .lock | .repne
  | .rep | .invalid _ => false

/-- The operand check: every memory form is one of the 24 of R102, and raw bytes are an encoding of R127. -/
def Instr.operandsWf (isa186 : Bool) : Instr → Bool
  | .addEbGb e _ | .addGbEb _ e | .addEbIb e _ | .orEbGb e _ | .orGbEb _ e | .orEbIb e _ | .adcEbGb e _
  | .adcGbEb _ e | .adcEbIb e _ | .sbbEbGb e _ | .sbbGbEb _ e | .sbbEbIb e _ | .andEbGb e _ | .andGbEb _ e
  | .andEbIb e _ | .subEbGb e _ | .subGbEb _ e | .subEbIb e _ | .xorEbGb e _ | .xorGbEb _ e | .xorEbIb e _
  | .cmpEbGb e _ | .cmpGbEb _ e | .cmpEbIb e _ | .incEb e | .decEb e | .negEb e | .mulEb e | .imulEb e | .divEb e
  | .idivEb e | .testEbGb e _ | .testEbIb e _ | .notEb e | .rolEb1 e | .rolEbCl e | .rolEbIb e _ | .rorEb1 e
  | .rorEbCl e | .rorEbIb e _ | .rclEb1 e | .rclEbCl e | .rclEbIb e _ | .rcrEb1 e | .rcrEbCl e | .rcrEbIb e _
  | .shlEb1 e | .shlEbCl e | .shlEbIb e _ | .shrEb1 e | .shrEbCl e | .shrEbIb e _ | .sarEb1 e | .sarEbCl e
  | .sarEbIb e _ | .movEbGb e _ | .movGbEb _ e | .movEbIb e _ | .xchgEbGb e _ => e.wf
  | .addEwGw e _ | .addGwEw _ e | .addEwIw e _ | .addEwIb e _ | .orEwGw e _ | .orGwEw _ e | .orEwIw e _
  | .orEwIb e _ | .adcEwGw e _ | .adcGwEw _ e | .adcEwIw e _ | .adcEwIb e _ | .sbbEwGw e _ | .sbbGwEw _ e
  | .sbbEwIw e _ | .sbbEwIb e _ | .andEwGw e _ | .andGwEw _ e | .andEwIw e _ | .andEwIb e _ | .subEwGw e _
  | .subGwEw _ e | .subEwIw e _ | .subEwIb e _ | .xorEwGw e _ | .xorGwEw _ e | .xorEwIw e _ | .xorEwIb e _
  | .cmpEwGw e _ | .cmpGwEw _ e | .cmpEwIw e _ | .cmpEwIb e _ | .incEw e | .decEw e | .negEw e | .mulEw e
  | .imulEw e | .divEw e | .idivEw e | .testEwGw e _ | .testEwIw e _ | .notEw e | .rolEw1 e | .rolEwCl e
  | .rolEwIb e _ | .rorEw1 e | .rorEwCl e | .rorEwIb e _ | .rclEw1 e | .rclEwCl e | .rclEwIb e _ | .rcrEw1 e
  | .rcrEwCl e | .rcrEwIb e _ | .shlEw1 e | .shlEwCl e | .shlEwIb e _ | .shrEw1 e | .shrEwCl e | .shrEwIb e _
  | .sarEw1 e | .sarEwCl e | .sarEwIb e _ | .movEwGw e _ | .movGwEw _ e | .movEwIw e _ | .movEwSw e _ | .movEsEw e
  | .movSsEw e | .movDsEw e | .pushEw e | .popEw e | .xchgEwGw e _ | .jmpEw e | .callEw e | .esc _ _ e
  | .imulGwEwIw _ e _ | .imulGwEwIb _ e _ => e.wf
  | .leaGwM _ m | .ldsGwM _ m | .lesGwM _ m | .jmpM m | .callM m | .boundGwM _ m => m.wf
  | .invalid raw => invalidRaw isa186 raw
  | .addAlIb _ | .addAxIw _ | .orAlIb _ | .orAxIw _ | .adcAlIb _ | .adcAxIw _ | .sbbAlIb _ | .sbbAxIw _
  | .andAlIb _ | .andAxIw _ | .subAlIb _ | .subAxIw _ | .xorAlIb _ | .xorAxIw _ | .cmpAlIb _ | .cmpAxIw _
  | .incR16 _ | .decR16 _ | .cbw | .cwd | .daa | .das | .aaa | .aas | .aamIb _ | .aadIb _ | .testAlIb _
  | .testAxIw _ | .movR8Ib _ _ | .movR16Iw _ _ | .movAlMoffs _ | .movAxMoffs _ | .movMoffsAl _ | .movMoffsAx _
  | .pushR16 _ | .pushEs | .pushCs | .pushSs | .pushDs | .popR16 _ | .popEs | .popSs | .popDs | .xchgAxCx
  | .xchgAxDx | .xchgAxBx | .xchgAxSp | .xchgAxBp | .xchgAxSi | .xchgAxDi | .xlat | .lahf | .sahf | .pushf | .popf
  | .inAlIb _ | .inAxIb _ | .inAlDx | .inAxDx | .outIbAl _ | .outIbAx _ | .outDxAl | .outDxAx | .jmpCb _ | .jmpCw _
  | .jmpFar _ _ | .callCw _ | .callFar _ _ | .ret | .retIw _ | .retf | .retfIw _ | .jo _ | .jno _ | .jb _ | .jnb _
  | .je _ | .jne _ | .jbe _ | .ja _ | .js _ | .jns _ | .jp _ | .jnp _ | .jl _ | .jge _ | .jle _ | .jg _ | .loop _
  | .loope _ | .loopne _ | .jcxz _ | .intIb _ | .int3 | .into | .iret | .movsb | .movsw | .lodsb | .lodsw | .cmpsb
  | .cmpsw | .scasb | .scasw | .stosb | .stosw | .clc | .stc | .cmc | .cld | .std | .cli | .sti | .nop | .hlt
  | .wait | .segEs | .segCs | .segSs | .segDs | .lock | .repne | .rep | .pusha | .popa | .pushIw _ | .pushIb _
  | .insb | .insw | .outsb | .outsw | .enterIwIb _ _ | .leave => true

/-- Well formed for a machine with `ISA_186` = `isa186`: some bytes encode it there. -/
def Instr.wf (isa186 : Bool) (i : Instr) : Bool :=
  (isa186 || !i.is186) && i.operandsWf isa186

/-- The instruction made of too many bytes of R94 (R90, R127). -/
def Instr.isRunaway : Instr → Bool
  | .invalid raw => runawayRaw raw
  | _ => false

/-- A whole instruction that some bytes encode: an opcode row, well formed, after at most `MAX_PREFIX` bytes of R94,
and none before the run of them that is itself `Invalid` (R90, R127). -/
def Decoded.wf (isa186 : Bool) (d : Decoded) : Bool :=
  d.op.wf isa186 && !d.op.isPrefix && decide (d.prefixes.length ≤ Config.maxPrefix)
    && (!d.op.isRunaway || d.prefixes.isEmpty)

end Sys2Proof
end

