-- ==== Sys2Proof/Decode.lean ====
section
/-! DEFINITION. The fetch_decoder (spec/30_encoding.md R90 to R132): bytes to instructions, and after it the encoder.
Decoding is total on any list of bytes: it answers an instruction, `Invalid` among them (R127), and the bytes that are
left, or the one named error, that the bytes end inside an instruction. -/

namespace Sys2Proof

/-- The one way decoding can fail on a list of bytes: the list ends inside the instruction.
A memory never ends (R92), so no step meets it. -/
inductive DecodeError where
  | truncated
deriving DecidableEq, Repr

/-- What a decoder answers: a value and the bytes left over. -/
abbrev Parse (α : Type) := Except DecodeError (α × List Byte)

/-- Decode `p`, then go on with its value and the bytes it left. -/
def Parse.andThen {α β : Type} (p : Parse α) (k : α → List Byte → Parse β) : Parse β :=
  match p with
  | .ok (a, bs) => k a bs
  | .error e => .error e

/-! ## Fields -/

/-- General register number `n` at width 16 (10_state.md R20). -/
def Reg16.ofBits (n : BitVec 3) : Reg16 :=
  match n with
  | 0#3 => .ax
  | 1#3 => .cx
  | 2#3 => .dx
  | 3#3 => .bx
  | 4#3 => .sp
  | 5#3 => .bp
  | 6#3 => .si
  | _ => .di

/-- The number of a 16-bit register (10_state.md R20). -/
def Reg16.bits : Reg16 → BitVec 3
  | .ax => 0#3
  | .cx => 1#3
  | .dx => 2#3
  | .bx => 3#3
  | .sp => 4#3
  | .bp => 5#3
  | .si => 6#3
  | .di => 7#3

/-- Register number `n` at width 8 (10_state.md R22). -/
def Reg8.ofBits (n : BitVec 3) : Reg8 :=
  match n with
  | 0#3 => .al
  | 1#3 => .cl
  | 2#3 => .dl
  | 3#3 => .bl
  | 4#3 => .ah
  | 5#3 => .ch
  | 6#3 => .dh
  | _ => .bh

/-- The number of an 8-bit register (10_state.md R22). -/
def Reg8.bits : Reg8 → BitVec 3
  | .al => 0#3
  | .cl => 1#3
  | .dl => 2#3
  | .bl => 3#3
  | .ah => 4#3
  | .ch => 5#3
  | .dh => 6#3
  | .bh => 7#3

/-- Segment register number `n`, of three bits so that 4 to 7 name none (10_state.md R26, R127). -/
def SReg.ofBits? (n : BitVec 3) : Option SReg :=
  match n with
  | 0#3 => some .es
  | 1#3 => some .cs
  | 2#3 => some .ss
  | 3#3 => some .ds
  | _ => none

/-- The number of a segment register, in a `reg` field (10_state.md R26). -/
def SReg.bits : SReg → BitVec 3
  | .es => 0#3
  | .cs => 1#3
  | .ss => 2#3
  | .ds => 3#3

/-- The base of `rm` code `n` (R102). -/
def EABase.ofBits (n : BitVec 3) : EABase :=
  match n with
  | 0#3 => .bxsi
  | 1#3 => .bxdi
  | 2#3 => .bpsi
  | 3#3 => .bpdi
  | 4#3 => .si
  | 5#3 => .di
  | 6#3 => .bp
  | _ => .bx

/-- The `rm` code of a base (R102). -/
def EABase.bits : EABase → BitVec 3
  | .bxsi => 0#3
  | .bxdi => 1#3
  | .bpsi => 2#3
  | .bpdi => 3#3
  | .si => 4#3
  | .di => 5#3
  | .bp => 6#3
  | .bx => 7#3

/-- The byte of R94 as a prefix, or none. -/
def Prefix.ofByte? (b : Byte) : Option Prefix :=
  match b with
  | 0x26#8 => some .es
  | 0x2E#8 => some .cs
  | 0x36#8 => some .ss
  | 0x3E#8 => some .ds
  | 0xF0#8 => some .lock
  | 0xF2#8 => some .repne
  | 0xF3#8 => some .rep
  | _ => none

/-- The byte of a prefix (R94). -/
def Prefix.byte : Prefix → Byte
  | .es => 0x26#8
  | .cs => 0x2E#8
  | .ss => 0x36#8
  | .ds => 0x3E#8
  | .lock => 0xF0#8
  | .repne => 0xF2#8
  | .rep => 0xF3#8

/-- The three fields of a ModRM byte (R100). -/
structure ModRM where
  mod : BitVec 2
  reg : BitVec 3
  rm : BitVec 3
deriving DecidableEq, Repr

/-- Bits 7 to 6, 5 to 3 and 2 to 0 of a ModRM byte (R100). -/
def ModRM.ofByte (b : Byte) : ModRM :=
  { mod := b.extractLsb' 6 2, reg := b.extractLsb' 3 3, rm := b.extractLsb' 0 3 }

/-- The ModRM byte of three fields (R100). -/
def ModRM.byte (m : ModRM) : Byte := m.mod ++ m.reg ++ m.rm

/-- An opcode byte with a three-bit number in its low bits (`+r`, R99). -/
def opPlus (op : Byte) (n : BitVec 3) : Byte := op ||| n.setWidth 8

/-! ## Pieces of an instruction -/

/-- `Fetch8` (R92) on a list of bytes. -/
def fetch8 : List Byte → Parse Byte
  | b :: bs => .ok (b, bs)
  | [] => .error .truncated

/-- `Fetch16` (R92), low byte first. -/
def fetch16 : List Byte → Parse Word
  | lo :: hi :: bs => .ok (Word.ofBytes lo hi, bs)
  | _ => .error .truncated

/-- The memory form of `mod` in 0 to 2 and `rm`, with the displacement bytes they call for (R102, R103). -/
def decodeMem (mod : BitVec 2) (rm : BitVec 3) (bs : List Byte) : Parse MemForm :=
  if mod = 0#2 then
    if rm = 6#3 then
      (fetch16 bs).andThen fun d bs =>
      .ok (.direct d, bs)
    else .ok (.base (EABase.ofBits rm), bs)
  else if mod = 1#2 then
    (fetch8 bs).andThen fun d bs =>
    .ok (.disp8 (EABase.ofBits rm) d, bs)
  else
    (fetch16 bs).andThen fun d bs =>
    .ok (.disp16 (EABase.ofBits rm) d, bs)

/-- The `rm` operand of a ModRM byte: a register with `mod` = 3 (R101), else memory (R102). -/
def decodeRM {R : Type} (reg : BitVec 3 → R) (m : ModRM) (bs : List Byte) : Parse (RM R) :=
  if m.mod = 3#2 then .ok (.reg (reg m.rm), bs)
  else
    (decodeMem m.mod m.rm bs).andThen fun f bs =>
    .ok (.mem f, bs)

/-- The ModRM byte. -/
def fetchModRM (bs : List Byte) : Parse ModRM :=
  (fetch8 bs).andThen fun b bs =>
  .ok (ModRM.ofByte b, bs)

/-- The `rm` operand of width 8. -/
def decodeEb (m : ModRM) (bs : List Byte) : Parse Eb := decodeRM Reg8.ofBits m bs

/-- The `rm` operand of width 16. -/
def decodeEw (m : ModRM) (bs : List Byte) : Parse Ew := decodeRM Reg16.ofBits m bs

/-! ## The operand shapes of the opcode map -/

/-- An entry without operands. -/
def op0 (i : Instr) (bs : List Byte) : Parse Instr := .ok (i, bs)

/-- An entry with an immediate byte or a byte displacement (`ib`, `cb`). -/
def opIb (mk : Byte → Instr) (bs : List Byte) : Parse Instr :=
  (fetch8 bs).andThen fun b bs =>
  .ok (mk b, bs)

/-- An entry with an immediate word, a word displacement or a direct offset (`iw`, `cw`, `moffs`). -/
def opIw (mk : Word → Instr) (bs : List Byte) : Parse Instr :=
  (fetch16 bs).andThen fun w bs =>
  .ok (mk w, bs)

/-- An entry with a far pointer, offset first (R108). -/
def opPtr (mk : Word → Word → Instr) (bs : List Byte) : Parse Instr :=
  (fetch16 bs).andThen fun off bs =>
  (fetch16 bs).andThen fun sel bs =>
  .ok (mk off sel, bs)

/-- An entry with a word and then a byte (ENTER, R106). -/
def opIwIb (mk : Word → Byte → Instr) (bs : List Byte) : Parse Instr :=
  (fetch16 bs).andThen fun w bs =>
  (fetch8 bs).andThen fun b bs =>
  .ok (mk w b, bs)

/-- `Eb` alone, after its ModRM byte. -/
def opEb (mk : Eb → Instr) (m : ModRM) (bs : List Byte) : Parse Instr :=
  (decodeEb m bs).andThen fun e bs =>
  .ok (mk e, bs)

/-- `Ew` alone, after its ModRM byte. -/
def opEw (mk : Ew → Instr) (m : ModRM) (bs : List Byte) : Parse Instr :=
  (decodeEw m bs).andThen fun e bs =>
  .ok (mk e, bs)

/-- `Eb, ib`, after the ModRM byte; the immediate follows the displacement (R106). -/
def opEbIb (mk : Eb → Byte → Instr) (m : ModRM) (bs : List Byte) : Parse Instr :=
  (decodeEb m bs).andThen fun e bs =>
  (fetch8 bs).andThen fun b bs =>
  .ok (mk e b, bs)

/-- `Ew, ib`, after the ModRM byte. -/
def opEwIb (mk : Ew → Byte → Instr) (m : ModRM) (bs : List Byte) : Parse Instr :=
  (decodeEw m bs).andThen fun e bs =>
  (fetch8 bs).andThen fun b bs =>
  .ok (mk e b, bs)

/-- `Ew, iw`, after the ModRM byte. -/
def opEwIw (mk : Ew → Word → Instr) (m : ModRM) (bs : List Byte) : Parse Instr :=
  (decodeEw m bs).andThen fun e bs =>
  (fetch16 bs).andThen fun w bs =>
  .ok (mk e w, bs)

/-- `Eb` and `Gb`, with the ModRM byte. -/
def opEbGb (mk : Eb → Reg8 → Instr) (bs : List Byte) : Parse Instr :=
  (fetchModRM bs).andThen fun m bs =>
  opEb (fun e => mk e (Reg8.ofBits m.reg)) m bs

/-- `Ew` and `Gw`, with the ModRM byte. -/
def opEwGw (mk : Ew → Reg16 → Instr) (bs : List Byte) : Parse Instr :=
  (fetchModRM bs).andThen fun m bs =>
  opEw (fun e => mk e (Reg16.ofBits m.reg)) m bs

/-- The raw bytes of an entry of R127 that one opcode byte decides. -/
def invalid1 (op : Byte) (bs : List Byte) : Parse Instr := .ok (.invalid [op], bs)

/-- The raw bytes of an entry of R127 that the ModRM byte decides: no displacement or immediate is consumed. -/
def invalid2 (op : Byte) (m : ModRM) (bs : List Byte) : Parse Instr := .ok (.invalid [op, m.byte], bs)

/-- A memory operand, after the ModRM byte; the register form is `Invalid` (R127). -/
def opMem (op : Byte) (mk : MemForm → Instr) (m : ModRM) (bs : List Byte) : Parse Instr :=
  if m.mod = 3#2 then invalid2 op m bs
  else
    (decodeMem m.mod m.rm bs).andThen fun f bs =>
    .ok (mk f, bs)

/-- `Gw, M`, with the ModRM byte. -/
def opGwM (op : Byte) (mk : Reg16 → MemForm → Instr) (bs : List Byte) : Parse Instr :=
  (fetchModRM bs).andThen fun m bs =>
  opMem op (mk (Reg16.ofBits m.reg)) m bs

/-! ## The groups (R126) -/

/-- Group 1 with `Eb, ib` (opcodes 80 and 82). -/
def group1Eb (bs : List Byte) : Parse Instr :=
  (fetchModRM bs).andThen fun m bs =>
  match m.reg with
  | 0#3 => opEbIb .addEbIb m bs
  | 1#3 => opEbIb .orEbIb m bs
  | 2#3 => opEbIb .adcEbIb m bs
  | 3#3 => opEbIb .sbbEbIb m bs
  | 4#3 => opEbIb .andEbIb m bs
  | 5#3 => opEbIb .subEbIb m bs
  | 6#3 => opEbIb .xorEbIb m bs
  | _ => opEbIb .cmpEbIb m bs

/-- Group 1 with `Ew, iw` (opcode 81). -/
def group1EwIw (bs : List Byte) : Parse Instr :=
  (fetchModRM bs).andThen fun m bs =>
  match m.reg with
  | 0#3 => opEwIw .addEwIw m bs
  | 1#3 => opEwIw .orEwIw m bs
  | 2#3 => opEwIw .adcEwIw m bs
  | 3#3 => opEwIw .sbbEwIw m bs
  | 4#3 => opEwIw .andEwIw m bs
  | 5#3 => opEwIw .subEwIw m bs
  | 6#3 => opEwIw .xorEwIw m bs
  | _ => opEwIw .cmpEwIw m bs

/-- Group 1 with `Ew` and a sign-extended `ib` (opcode 83). -/
def group1EwIb (bs : List Byte) : Parse Instr :=
  (fetchModRM bs).andThen fun m bs =>
  match m.reg with
  | 0#3 => opEwIb .addEwIb m bs
  | 1#3 => opEwIb .orEwIb m bs
  | 2#3 => opEwIb .adcEwIb m bs
  | 3#3 => opEwIb .sbbEwIb m bs
  | 4#3 => opEwIb .andEwIb m bs
  | 5#3 => opEwIb .subEwIb m bs
  | 6#3 => opEwIb .xorEwIb m bs
  | _ => opEwIb .cmpEwIb m bs

/-- Group 2 with `Eb` by 1 (opcode D0). -/
def group2Eb1 (bs : List Byte) : Parse Instr :=
  (fetchModRM bs).andThen fun m bs =>
  match m.reg with
  | 0#3 => opEb .rolEb1 m bs
  | 1#3 => opEb .rorEb1 m bs
  | 2#3 => opEb .rclEb1 m bs
  | 3#3 => opEb .rcrEb1 m bs
  | 4#3 => opEb .shlEb1 m bs
  | 5#3 => opEb .shrEb1 m bs
  | 6#3 => invalid2 0xD0#8 m bs
  | _ => opEb .sarEb1 m bs

/-- Group 2 with `Ew` by 1 (opcode D1). -/
def group2Ew1 (bs : List Byte) : Parse Instr :=
  (fetchModRM bs).andThen fun m bs =>
  match m.reg with
  | 0#3 => opEw .rolEw1 m bs
  | 1#3 => opEw .rorEw1 m bs
  | 2#3 => opEw .rclEw1 m bs
  | 3#3 => opEw .rcrEw1 m bs
  | 4#3 => opEw .shlEw1 m bs
  | 5#3 => opEw .shrEw1 m bs
  | 6#3 => invalid2 0xD1#8 m bs
  | _ => opEw .sarEw1 m bs

/-- Group 2 with `Eb` by CL (opcode D2). -/
def group2EbCl (bs : List Byte) : Parse Instr :=
  (fetchModRM bs).andThen fun m bs =>
  match m.reg with
  | 0#3 => opEb .rolEbCl m bs
  | 1#3 => opEb .rorEbCl m bs
  | 2#3 => opEb .rclEbCl m bs
  | 3#3 => opEb .rcrEbCl m bs
  | 4#3 => opEb .shlEbCl m bs
  | 5#3 => opEb .shrEbCl m bs
  | 6#3 => invalid2 0xD2#8 m bs
  | _ => opEb .sarEbCl m bs

/-- Group 2 with `Ew` by CL (opcode D3). -/
def group2EwCl (bs : List Byte) : Parse Instr :=
  (fetchModRM bs).andThen fun m bs =>
  match m.reg with
  | 0#3 => opEw .rolEwCl m bs
  | 1#3 => opEw .rorEwCl m bs
  | 2#3 => opEw .rclEwCl m bs
  | 3#3 => opEw .rcrEwCl m bs
  | 4#3 => opEw .shlEwCl m bs
  | 5#3 => opEw .shrEwCl m bs
  | 6#3 => invalid2 0xD3#8 m bs
  | _ => opEw .sarEwCl m bs

/-- Group 2 with `Eb, ib` (opcode C0, under `ISA_186`). -/
def group2EbIb (bs : List Byte) : Parse Instr :=
  (fetchModRM bs).andThen fun m bs =>
  match m.reg with
  | 0#3 => opEbIb .rolEbIb m bs
  | 1#3 => opEbIb .rorEbIb m bs
  | 2#3 => opEbIb .rclEbIb m bs
  | 3#3 => opEbIb .rcrEbIb m bs
  | 4#3 => opEbIb .shlEbIb m bs
  | 5#3 => opEbIb .shrEbIb m bs
  | 6#3 => invalid2 0xC0#8 m bs
  | _ => opEbIb .sarEbIb m bs

/-- Group 2 with `Ew, ib` (opcode C1, under `ISA_186`). -/
def group2EwIb (bs : List Byte) : Parse Instr :=
  (fetchModRM bs).andThen fun m bs =>
  match m.reg with
  | 0#3 => opEwIb .rolEwIb m bs
  | 1#3 => opEwIb .rorEwIb m bs
  | 2#3 => opEwIb .rclEwIb m bs
  | 3#3 => opEwIb .rcrEwIb m bs
  | 4#3 => opEwIb .shlEwIb m bs
  | 5#3 => opEwIb .shrEwIb m bs
  | 6#3 => invalid2 0xC1#8 m bs
  | _ => opEwIb .sarEwIb m bs

/-- Group 3 with `Eb` (opcode F6). -/
def group3Eb (bs : List Byte) : Parse Instr :=
  (fetchModRM bs).andThen fun m bs =>
  match m.reg with
  | 0#3 => opEbIb .testEbIb m bs
  | 1#3 => invalid2 0xF6#8 m bs
  | 2#3 => opEb .notEb m bs
  | 3#3 => opEb .negEb m bs
  | 4#3 => opEb .mulEb m bs
  | 5#3 => opEb .imulEb m bs
  | 6#3 => opEb .divEb m bs
  | _ => opEb .idivEb m bs

/-- Group 3 with `Ew` (opcode F7). -/
def group3Ew (bs : List Byte) : Parse Instr :=
  (fetchModRM bs).andThen fun m bs =>
  match m.reg with
  | 0#3 => opEwIw .testEwIw m bs
  | 1#3 => invalid2 0xF7#8 m bs
  | 2#3 => opEw .notEw m bs
  | 3#3 => opEw .negEw m bs
  | 4#3 => opEw .mulEw m bs
  | 5#3 => opEw .imulEw m bs
  | 6#3 => opEw .divEw m bs
  | _ => opEw .idivEw m bs

/-- Group 4 (opcode FE). -/
def group4 (bs : List Byte) : Parse Instr :=
  (fetchModRM bs).andThen fun m bs =>
  match m.reg with
  | 0#3 => opEb .incEb m bs
  | 1#3 => opEb .decEb m bs
  | _ => invalid2 0xFE#8 m bs

/-- Group 5 (opcode FF). -/
def group5 (bs : List Byte) : Parse Instr :=
  (fetchModRM bs).andThen fun m bs =>
  match m.reg with
  | 0#3 => opEw .incEw m bs
  | 1#3 => opEw .decEw m bs
  | 2#3 => opEw .callEw m bs
  | 3#3 => opMem 0xFF#8 .callM m bs
  | 4#3 => opEw .jmpEw m bs
  | 5#3 => opMem 0xFF#8 .jmpM m bs
  | 6#3 => opEw .pushEw m bs
  | _ => invalid2 0xFF#8 m bs

/-- MOV Ew, Sw (opcode 8C): `reg` in 4 to 7 is `Invalid` (R127). -/
def movFromSReg (bs : List Byte) : Parse Instr :=
  (fetchModRM bs).andThen fun m bs =>
  match SReg.ofBits? m.reg with
  | some sr => opEw (fun e => .movEwSw e sr) m bs
  | none => invalid2 0x8C#8 m bs

/-- MOV Sw, Ew (opcode 8E): `reg` = 1 and `reg` in 4 to 7 are `Invalid` (R127). -/
def movToSReg (bs : List Byte) : Parse Instr :=
  (fetchModRM bs).andThen fun m bs =>
  match m.reg with
  | 0#3 => opEw .movEsEw m bs
  | 2#3 => opEw .movSsEw m bs
  | 3#3 => opEw .movDsEw m bs
  | _ => invalid2 0x8E#8 m bs

/-- POP Ew (opcode 8F): `reg` must be 0 (R126). -/
def group8F (bs : List Byte) : Parse Instr :=
  (fetchModRM bs).andThen fun m bs =>
  if m.reg = 0#3 then opEw .popEw m bs else invalid2 0x8F#8 m bs

/-- MOV Eb, ib (opcode C6): `reg` must be 0 (R126). -/
def groupC6 (bs : List Byte) : Parse Instr :=
  (fetchModRM bs).andThen fun m bs =>
  if m.reg = 0#3 then opEbIb .movEbIb m bs else invalid2 0xC6#8 m bs

/-- MOV Ew, iw (opcode C7): `reg` must be 0 (R126). -/
def groupC7 (bs : List Byte) : Parse Instr :=
  (fetchModRM bs).andThen fun m bs =>
  if m.reg = 0#3 then opEwIw .movEwIw m bs else invalid2 0xC7#8 m bs

/-- ESC (opcodes D8 to DF): any ModRM byte, decoded for its length (45_system.md R360). -/
def opEsc (n : BitVec 3) (bs : List Byte) : Parse Instr :=
  (fetchModRM bs).andThen fun m bs =>
  opEw (fun e => .esc n m.reg e) m bs

/-! ## The opcode map, one decoder per high nibble (R110 to R125) -/

/-- IMUL Gw, Ew, iw (opcode 69, under `ISA_186`). -/
def opImulIw (bs : List Byte) : Parse Instr :=
  (fetchModRM bs).andThen fun m bs =>
  opEwIw (.imulGwEwIw (Reg16.ofBits m.reg)) m bs

/-- IMUL Gw, Ew, ib (opcode 6B, under `ISA_186`). -/
def opImulIb (bs : List Byte) : Parse Instr :=
  (fetchModRM bs).andThen fun m bs =>
  opEwIb (.imulGwEwIb (Reg16.ofBits m.reg)) m bs

/-- High nibble 0 (R110). -/
def decode0 (lo : BitVec 4) (bs : List Byte) : Parse Instr :=
  match lo with
  | 0x0#4 => opEbGb .addEbGb bs
  | 0x1#4 => opEwGw .addEwGw bs
  | 0x2#4 => opEbGb (fun e g => .addGbEb g e) bs
  | 0x3#4 => opEwGw (fun e g => .addGwEw g e) bs
  | 0x4#4 => opIb .addAlIb bs
  | 0x5#4 => opIw .addAxIw bs
  | 0x6#4 => op0 .pushEs bs
  | 0x7#4 => op0 .popEs bs
  | 0x8#4 => opEbGb .orEbGb bs
  | 0x9#4 => opEwGw .orEwGw bs
  | 0xA#4 => opEbGb (fun e g => .orGbEb g e) bs
  | 0xB#4 => opEwGw (fun e g => .orGwEw g e) bs
  | 0xC#4 => opIb .orAlIb bs
  | 0xD#4 => opIw .orAxIw bs
  | 0xE#4 => op0 .pushCs bs
  | _ => invalid1 0x0F#8 bs

/-- High nibble 1 (R111). -/
def decode1 (lo : BitVec 4) (bs : List Byte) : Parse Instr :=
  match lo with
  | 0x0#4 => opEbGb .adcEbGb bs
  | 0x1#4 => opEwGw .adcEwGw bs
  | 0x2#4 => opEbGb (fun e g => .adcGbEb g e) bs
  | 0x3#4 => opEwGw (fun e g => .adcGwEw g e) bs
  | 0x4#4 => opIb .adcAlIb bs
  | 0x5#4 => opIw .adcAxIw bs
  | 0x6#4 => op0 .pushSs bs
  | 0x7#4 => op0 .popSs bs
  | 0x8#4 => opEbGb .sbbEbGb bs
  | 0x9#4 => opEwGw .sbbEwGw bs
  | 0xA#4 => opEbGb (fun e g => .sbbGbEb g e) bs
  | 0xB#4 => opEwGw (fun e g => .sbbGwEw g e) bs
  | 0xC#4 => opIb .sbbAlIb bs
  | 0xD#4 => opIw .sbbAxIw bs
  | 0xE#4 => op0 .pushDs bs
  | _ => op0 .popDs bs

/-- High nibble 2 (R112). The bytes of R94 are read before (R90); alone they are their own rows. -/
def decode2 (lo : BitVec 4) (bs : List Byte) : Parse Instr :=
  match lo with
  | 0x0#4 => opEbGb .andEbGb bs
  | 0x1#4 => opEwGw .andEwGw bs
  | 0x2#4 => opEbGb (fun e g => .andGbEb g e) bs
  | 0x3#4 => opEwGw (fun e g => .andGwEw g e) bs
  | 0x4#4 => opIb .andAlIb bs
  | 0x5#4 => opIw .andAxIw bs
  | 0x6#4 => op0 .segEs bs
  | 0x7#4 => op0 .daa bs
  | 0x8#4 => opEbGb .subEbGb bs
  | 0x9#4 => opEwGw .subEwGw bs
  | 0xA#4 => opEbGb (fun e g => .subGbEb g e) bs
  | 0xB#4 => opEwGw (fun e g => .subGwEw g e) bs
  | 0xC#4 => opIb .subAlIb bs
  | 0xD#4 => opIw .subAxIw bs
  | 0xE#4 => op0 .segCs bs
  | _ => op0 .das bs

/-- High nibble 3 (R113). The bytes of R94 are read before (R90); alone they are their own rows. -/
def decode3 (lo : BitVec 4) (bs : List Byte) : Parse Instr :=
  match lo with
  | 0x0#4 => opEbGb .xorEbGb bs
  | 0x1#4 => opEwGw .xorEwGw bs
  | 0x2#4 => opEbGb (fun e g => .xorGbEb g e) bs
  | 0x3#4 => opEwGw (fun e g => .xorGwEw g e) bs
  | 0x4#4 => opIb .xorAlIb bs
  | 0x5#4 => opIw .xorAxIw bs
  | 0x6#4 => op0 .segSs bs
  | 0x7#4 => op0 .aaa bs
  | 0x8#4 => opEbGb .cmpEbGb bs
  | 0x9#4 => opEwGw .cmpEwGw bs
  | 0xA#4 => opEbGb (fun e g => .cmpGbEb g e) bs
  | 0xB#4 => opEwGw (fun e g => .cmpGwEw g e) bs
  | 0xC#4 => opIb .cmpAlIb bs
  | 0xD#4 => opIw .cmpAxIw bs
  | 0xE#4 => op0 .segDs bs
  | _ => op0 .aas bs

/-- High nibble 4 (R114). -/
def decode4 (lo : BitVec 4) (bs : List Byte) : Parse Instr :=
  match lo with
  | 0x0#4 => op0 (.incR16 .ax) bs
  | 0x1#4 => op0 (.incR16 .cx) bs
  | 0x2#4 => op0 (.incR16 .dx) bs
  | 0x3#4 => op0 (.incR16 .bx) bs
  | 0x4#4 => op0 (.incR16 .sp) bs
  | 0x5#4 => op0 (.incR16 .bp) bs
  | 0x6#4 => op0 (.incR16 .si) bs
  | 0x7#4 => op0 (.incR16 .di) bs
  | 0x8#4 => op0 (.decR16 .ax) bs
  | 0x9#4 => op0 (.decR16 .cx) bs
  | 0xA#4 => op0 (.decR16 .dx) bs
  | 0xB#4 => op0 (.decR16 .bx) bs
  | 0xC#4 => op0 (.decR16 .sp) bs
  | 0xD#4 => op0 (.decR16 .bp) bs
  | 0xE#4 => op0 (.decR16 .si) bs
  | _ => op0 (.decR16 .di) bs

/-- High nibble 5 (R115). -/
def decode5 (lo : BitVec 4) (bs : List Byte) : Parse Instr :=
  match lo with
  | 0x0#4 => op0 (.pushR16 .ax) bs
  | 0x1#4 => op0 (.pushR16 .cx) bs
  | 0x2#4 => op0 (.pushR16 .dx) bs
  | 0x3#4 => op0 (.pushR16 .bx) bs
  | 0x4#4 => op0 (.pushR16 .sp) bs
  | 0x5#4 => op0 (.pushR16 .bp) bs
  | 0x6#4 => op0 (.pushR16 .si) bs
  | 0x7#4 => op0 (.pushR16 .di) bs
  | 0x8#4 => op0 (.popR16 .ax) bs
  | 0x9#4 => op0 (.popR16 .cx) bs
  | 0xA#4 => op0 (.popR16 .dx) bs
  | 0xB#4 => op0 (.popR16 .bx) bs
  | 0xC#4 => op0 (.popR16 .sp) bs
  | 0xD#4 => op0 (.popR16 .bp) bs
  | 0xE#4 => op0 (.popR16 .si) bs
  | _ => op0 (.popR16 .di) bs

/-- High nibble 6 under `ISA_186` (R116). -/
def decode6 (lo : BitVec 4) (bs : List Byte) : Parse Instr :=
  match lo with
  | 0x0#4 => op0 .pusha bs
  | 0x1#4 => op0 .popa bs
  | 0x2#4 => opGwM 0x62#8 .boundGwM bs
  | 0x3#4 => invalid1 0x63#8 bs
  | 0x4#4 => invalid1 0x64#8 bs
  | 0x5#4 => invalid1 0x65#8 bs
  | 0x6#4 => invalid1 0x66#8 bs
  | 0x7#4 => invalid1 0x67#8 bs
  | 0x8#4 => opIw .pushIw bs
  | 0x9#4 => opImulIw bs
  | 0xA#4 => opIb .pushIb bs
  | 0xB#4 => opImulIb bs
  | 0xC#4 => op0 .insb bs
  | 0xD#4 => op0 .insw bs
  | 0xE#4 => op0 .outsb bs
  | _ => op0 .outsw bs

/-- High nibble 7 (R117). -/
def decode7 (lo : BitVec 4) (bs : List Byte) : Parse Instr :=
  match lo with
  | 0x0#4 => opIb .jo bs
  | 0x1#4 => opIb .jno bs
  | 0x2#4 => opIb .jb bs
  | 0x3#4 => opIb .jnb bs
  | 0x4#4 => opIb .je bs
  | 0x5#4 => opIb .jne bs
  | 0x6#4 => opIb .jbe bs
  | 0x7#4 => opIb .ja bs
  | 0x8#4 => opIb .js bs
  | 0x9#4 => opIb .jns bs
  | 0xA#4 => opIb .jp bs
  | 0xB#4 => opIb .jnp bs
  | 0xC#4 => opIb .jl bs
  | 0xD#4 => opIb .jge bs
  | 0xE#4 => opIb .jle bs
  | _ => opIb .jg bs

/-- High nibble 8 (R118). -/
def decode8 (lo : BitVec 4) (bs : List Byte) : Parse Instr :=
  match lo with
  | 0x0#4 => group1Eb bs
  | 0x1#4 => group1EwIw bs
  | 0x2#4 => group1Eb bs
  | 0x3#4 => group1EwIb bs
  | 0x4#4 => opEbGb .testEbGb bs
  | 0x5#4 => opEwGw .testEwGw bs
  | 0x6#4 => opEbGb .xchgEbGb bs
  | 0x7#4 => opEwGw .xchgEwGw bs
  | 0x8#4 => opEbGb .movEbGb bs
  | 0x9#4 => opEwGw .movEwGw bs
  | 0xA#4 => opEbGb (fun e g => .movGbEb g e) bs
  | 0xB#4 => opEwGw (fun e g => .movGwEw g e) bs
  | 0xC#4 => movFromSReg bs
  | 0xD#4 => opGwM 0x8D#8 .leaGwM bs
  | 0xE#4 => movToSReg bs
  | _ => group8F bs

/-- High nibble 9 (R119). -/
def decode9 (lo : BitVec 4) (bs : List Byte) : Parse Instr :=
  match lo with
  | 0x0#4 => op0 .nop bs
  | 0x1#4 => op0 .xchgAxCx bs
  | 0x2#4 => op0 .xchgAxDx bs
  | 0x3#4 => op0 .xchgAxBx bs
  | 0x4#4 => op0 .xchgAxSp bs
  | 0x5#4 => op0 .xchgAxBp bs
  | 0x6#4 => op0 .xchgAxSi bs
  | 0x7#4 => op0 .xchgAxDi bs
  | 0x8#4 => op0 .cbw bs
  | 0x9#4 => op0 .cwd bs
  | 0xA#4 => opPtr .callFar bs
  | 0xB#4 => op0 .wait bs
  | 0xC#4 => op0 .pushf bs
  | 0xD#4 => op0 .popf bs
  | 0xE#4 => op0 .sahf bs
  | _ => op0 .lahf bs

/-- High nibble A (R120). -/
def decodeA (lo : BitVec 4) (bs : List Byte) : Parse Instr :=
  match lo with
  | 0x0#4 => opIw .movAlMoffs bs
  | 0x1#4 => opIw .movAxMoffs bs
  | 0x2#4 => opIw .movMoffsAl bs
  | 0x3#4 => opIw .movMoffsAx bs
  | 0x4#4 => op0 .movsb bs
  | 0x5#4 => op0 .movsw bs
  | 0x6#4 => op0 .cmpsb bs
  | 0x7#4 => op0 .cmpsw bs
  | 0x8#4 => opIb .testAlIb bs
  | 0x9#4 => opIw .testAxIw bs
  | 0xA#4 => op0 .stosb bs
  | 0xB#4 => op0 .stosw bs
  | 0xC#4 => op0 .lodsb bs
  | 0xD#4 => op0 .lodsw bs
  | 0xE#4 => op0 .scasb bs
  | _ => op0 .scasw bs

/-- High nibble B (R121). -/
def decodeB (lo : BitVec 4) (bs : List Byte) : Parse Instr :=
  match lo with
  | 0x0#4 => opIb (.movR8Ib .al) bs
  | 0x1#4 => opIb (.movR8Ib .cl) bs
  | 0x2#4 => opIb (.movR8Ib .dl) bs
  | 0x3#4 => opIb (.movR8Ib .bl) bs
  | 0x4#4 => opIb (.movR8Ib .ah) bs
  | 0x5#4 => opIb (.movR8Ib .ch) bs
  | 0x6#4 => opIb (.movR8Ib .dh) bs
  | 0x7#4 => opIb (.movR8Ib .bh) bs
  | 0x8#4 => opIw (.movR16Iw .ax) bs
  | 0x9#4 => opIw (.movR16Iw .cx) bs
  | 0xA#4 => opIw (.movR16Iw .dx) bs
  | 0xB#4 => opIw (.movR16Iw .bx) bs
  | 0xC#4 => opIw (.movR16Iw .sp) bs
  | 0xD#4 => opIw (.movR16Iw .bp) bs
  | 0xE#4 => opIw (.movR16Iw .si) bs
  | _ => opIw (.movR16Iw .di) bs

/-- High nibble C (R122). -/
def decodeC (isa186 : Bool) (lo : BitVec 4) (bs : List Byte) : Parse Instr :=
  match lo with
  | 0x0#4 => if isa186 then group2EbIb bs else invalid1 0xC0#8 bs
  | 0x1#4 => if isa186 then group2EwIb bs else invalid1 0xC1#8 bs
  | 0x2#4 => opIw .retIw bs
  | 0x3#4 => op0 .ret bs
  | 0x4#4 => opGwM 0xC4#8 .lesGwM bs
  | 0x5#4 => opGwM 0xC5#8 .ldsGwM bs
  | 0x6#4 => groupC6 bs
  | 0x7#4 => groupC7 bs
  | 0x8#4 => if isa186 then opIwIb .enterIwIb bs else invalid1 0xC8#8 bs
  | 0x9#4 => if isa186 then op0 .leave bs else invalid1 0xC9#8 bs
  | 0xA#4 => opIw .retfIw bs
  | 0xB#4 => op0 .retf bs
  | 0xC#4 => op0 .int3 bs
  | 0xD#4 => opIb .intIb bs
  | 0xE#4 => op0 .into bs
  | _ => op0 .iret bs

/-- High nibble D (R123). -/
def decodeD (lo : BitVec 4) (bs : List Byte) : Parse Instr :=
  match lo with
  | 0x0#4 => group2Eb1 bs
  | 0x1#4 => group2Ew1 bs
  | 0x2#4 => group2EbCl bs
  | 0x3#4 => group2EwCl bs
  | 0x4#4 => opIb .aamIb bs
  | 0x5#4 => opIb .aadIb bs
  | 0x6#4 => invalid1 0xD6#8 bs
  | 0x7#4 => op0 .xlat bs
  | 0x8#4 => opEsc 0#3 bs
  | 0x9#4 => opEsc 1#3 bs
  | 0xA#4 => opEsc 2#3 bs
  | 0xB#4 => opEsc 3#3 bs
  | 0xC#4 => opEsc 4#3 bs
  | 0xD#4 => opEsc 5#3 bs
  | 0xE#4 => opEsc 6#3 bs
  | _ => opEsc 7#3 bs

/-- High nibble E (R124). -/
def decodeE (lo : BitVec 4) (bs : List Byte) : Parse Instr :=
  match lo with
  | 0x0#4 => opIb .loopne bs
  | 0x1#4 => opIb .loope bs
  | 0x2#4 => opIb .loop bs
  | 0x3#4 => opIb .jcxz bs
  | 0x4#4 => opIb .inAlIb bs
  | 0x5#4 => opIb .inAxIb bs
  | 0x6#4 => opIb .outIbAl bs
  | 0x7#4 => opIb .outIbAx bs
  | 0x8#4 => opIw .callCw bs
  | 0x9#4 => opIw .jmpCw bs
  | 0xA#4 => opPtr .jmpFar bs
  | 0xB#4 => opIb .jmpCb bs
  | 0xC#4 => op0 .inAlDx bs
  | 0xD#4 => op0 .inAxDx bs
  | 0xE#4 => op0 .outDxAl bs
  | _ => op0 .outDxAx bs

/-- High nibble F (R125). The bytes of R94 are read before (R90); alone they are their own rows. -/
def decodeF (lo : BitVec 4) (bs : List Byte) : Parse Instr :=
  match lo with
  | 0x0#4 => op0 .lock bs
  | 0x1#4 => invalid1 0xF1#8 bs
  | 0x2#4 => op0 .repne bs
  | 0x3#4 => op0 .rep bs
  | 0x4#4 => op0 .hlt bs
  | 0x5#4 => op0 .cmc bs
  | 0x6#4 => group3Eb bs
  | 0x7#4 => group3Ew bs
  | 0x8#4 => op0 .clc bs
  | 0x9#4 => op0 .stc bs
  | 0xA#4 => op0 .cli bs
  | 0xB#4 => op0 .sti bs
  | 0xC#4 => op0 .cld bs
  | 0xD#4 => op0 .std bs
  | 0xE#4 => group4 bs
  | _ => group5 bs

/-- Dispatch on the high nibble of the opcode byte, then on the low one (R90), for one value of `ISA_186`.
With `ISA_186` = false the whole of nibble 6 is `Invalid` (R116). -/
def decodeOpcode (isa186 : Bool) (op : Byte) (bs : List Byte) : Parse Instr :=
  let lo : BitVec 4 := op.extractLsb' 0 4
  let hi : BitVec 4 := op.extractLsb' 4 4
  match hi with
  | 0x0#4 => decode0 lo bs
  | 0x1#4 => decode1 lo bs
  | 0x2#4 => decode2 lo bs
  | 0x3#4 => decode3 lo bs
  | 0x4#4 => decode4 lo bs
  | 0x5#4 => decode5 lo bs
  | 0x6#4 => if isa186 then decode6 lo bs else invalid1 op bs
  | 0x7#4 => decode7 lo bs
  | 0x8#4 => decode8 lo bs
  | 0x9#4 => decode9 lo bs
  | 0xA#4 => decodeA lo bs
  | 0xB#4 => decodeB lo bs
  | 0xC#4 => decodeC isa186 lo bs
  | 0xD#4 => decodeD lo bs
  | 0xE#4 => decodeE lo bs
  | _ => decodeF lo bs

/-- Decoding from the opcode byte on. -/
def decodeOp (isa186 : Bool) (bs : List Byte) : Parse Instr :=
  (fetch8 bs).andThen fun op bs =>
  decodeOpcode isa186 op bs

/-- The loop of R90 over the bytes of R94: `seen` holds those already consumed, last one first.
The `MAX_PREFIX` + 1st such byte makes the whole run `Invalid` (R127). -/
def decodeFrom (isa186 : Bool) (seen : List Prefix) : List Byte → Parse Decoded
  | [] => .error .truncated
  | b :: bs =>
    match Prefix.ofByte? b with
    | some p =>
      if seen.length < Config.maxPrefix then decodeFrom isa186 (p :: seen) bs
      else .ok (⟨[], .invalid (((p :: seen).reverse).map Prefix.byte)⟩, bs)
    | none =>
      (decodeOpcode isa186 b bs).andThen fun i bs =>
      .ok (⟨seen.reverse, i⟩, bs)

/-- `Decode` (R90) on a list of bytes: the instruction and the bytes it leaves. -/
def decode (isa186 : Bool) (bs : List Byte) : Parse Decoded := decodeFrom isa186 [] bs

/-- The longest instruction: `MAX_PREFIX` bytes of R94 and the six bytes of R93. -/
def maxLength : Nat := Config.maxPrefix + 6

/-! ## The encoder -/

/-- The displacement bytes of a memory form (R103). -/
def MemForm.dispBytes : MemForm → List Byte
  | .base _ => []
  | .direct d => [Word.lo d, Word.hi d]
  | .disp8 _ d => [d]
  | .disp16 _ d => [Word.lo d, Word.hi d]

/-- The `mod` and `rm` fields of a memory form (R102). -/
def MemForm.modRM (reg : BitVec 3) : MemForm → ModRM
  | .base b => ⟨0#2, reg, b.bits⟩
  | .direct _ => ⟨0#2, reg, 6#3⟩
  | .disp8 b _ => ⟨1#2, reg, b.bits⟩
  | .disp16 b _ => ⟨2#2, reg, b.bits⟩

/-- Opcode, ModRM byte and displacement of an entry with a memory operand. -/
def encM (reg : BitVec 3) (op : Byte) (m : MemForm) : List Byte :=
  op :: (m.modRM reg).byte :: m.dispBytes

/-- Opcode, ModRM byte and displacement of an entry with an `rm` operand. -/
def encE {R : Type} (bits : R → BitVec 3) (reg : BitVec 3) (op : Byte) : RM R → List Byte
  | .reg r => [op, (ModRM.mk 3#2 reg (bits r)).byte]
  | .mem m => encM reg op m

/-- The bytes of an instruction, from the opcode map (R110 to R126).
Opcode 82 is never written: it decodes as 80 does (R118, log entry 11). -/
def encode : Instr → List Byte
  | .addEbGb e g => encE Reg8.bits g.bits 0x00#8 e
  | .addEwGw e g => encE Reg16.bits g.bits 0x01#8 e
  | .addGbEb g e => encE Reg8.bits g.bits 0x02#8 e
  | .addGwEw g e => encE Reg16.bits g.bits 0x03#8 e
  | .addAlIb b => [0x04#8, b]
  | .addAxIw w => [0x05#8, Word.lo w, Word.hi w]
  | .addEbIb e b => encE Reg8.bits 0#3 0x80#8 e ++ [b]
  | .addEwIw e w => encE Reg16.bits 0#3 0x81#8 e ++ [Word.lo w, Word.hi w]
  | .addEwIb e b => encE Reg16.bits 0#3 0x83#8 e ++ [b]
  | .orEbGb e g => encE Reg8.bits g.bits 0x08#8 e
  | .orEwGw e g => encE Reg16.bits g.bits 0x09#8 e
  | .orGbEb g e => encE Reg8.bits g.bits 0x0A#8 e
  | .orGwEw g e => encE Reg16.bits g.bits 0x0B#8 e
  | .orAlIb b => [0x0C#8, b]
  | .orAxIw w => [0x0D#8, Word.lo w, Word.hi w]
  | .orEbIb e b => encE Reg8.bits 1#3 0x80#8 e ++ [b]
  | .orEwIw e w => encE Reg16.bits 1#3 0x81#8 e ++ [Word.lo w, Word.hi w]
  | .orEwIb e b => encE Reg16.bits 1#3 0x83#8 e ++ [b]
  | .adcEbGb e g => encE Reg8.bits g.bits 0x10#8 e
  | .adcEwGw e g => encE Reg16.bits g.bits 0x11#8 e
  | .adcGbEb g e => encE Reg8.bits g.bits 0x12#8 e
  | .adcGwEw g e => encE Reg16.bits g.bits 0x13#8 e
  | .adcAlIb b => [0x14#8, b]
  | .adcAxIw w => [0x15#8, Word.lo w, Word.hi w]
  | .adcEbIb e b => encE Reg8.bits 2#3 0x80#8 e ++ [b]
  | .adcEwIw e w => encE Reg16.bits 2#3 0x81#8 e ++ [Word.lo w, Word.hi w]
  | .adcEwIb e b => encE Reg16.bits 2#3 0x83#8 e ++ [b]
  | .sbbEbGb e g => encE Reg8.bits g.bits 0x18#8 e
  | .sbbEwGw e g => encE Reg16.bits g.bits 0x19#8 e
  | .sbbGbEb g e => encE Reg8.bits g.bits 0x1A#8 e
  | .sbbGwEw g e => encE Reg16.bits g.bits 0x1B#8 e
  | .sbbAlIb b => [0x1C#8, b]
  | .sbbAxIw w => [0x1D#8, Word.lo w, Word.hi w]
  | .sbbEbIb e b => encE Reg8.bits 3#3 0x80#8 e ++ [b]
  | .sbbEwIw e w => encE Reg16.bits 3#3 0x81#8 e ++ [Word.lo w, Word.hi w]
  | .sbbEwIb e b => encE Reg16.bits 3#3 0x83#8 e ++ [b]
  | .andEbGb e g => encE Reg8.bits g.bits 0x20#8 e
  | .andEwGw e g => encE Reg16.bits g.bits 0x21#8 e
  | .andGbEb g e => encE Reg8.bits g.bits 0x22#8 e
  | .andGwEw g e => encE Reg16.bits g.bits 0x23#8 e
  | .andAlIb b => [0x24#8, b]
  | .andAxIw w => [0x25#8, Word.lo w, Word.hi w]
  | .andEbIb e b => encE Reg8.bits 4#3 0x80#8 e ++ [b]
  | .andEwIw e w => encE Reg16.bits 4#3 0x81#8 e ++ [Word.lo w, Word.hi w]
  | .andEwIb e b => encE Reg16.bits 4#3 0x83#8 e ++ [b]
  | .subEbGb e g => encE Reg8.bits g.bits 0x28#8 e
  | .subEwGw e g => encE Reg16.bits g.bits 0x29#8 e
  | .subGbEb g e => encE Reg8.bits g.bits 0x2A#8 e
  | .subGwEw g e => encE Reg16.bits g.bits 0x2B#8 e
  | .subAlIb b => [0x2C#8, b]
  | .subAxIw w => [0x2D#8, Word.lo w, Word.hi w]
  | .subEbIb e b => encE Reg8.bits 5#3 0x80#8 e ++ [b]
  | .subEwIw e w => encE Reg16.bits 5#3 0x81#8 e ++ [Word.lo w, Word.hi w]
  | .subEwIb e b => encE Reg16.bits 5#3 0x83#8 e ++ [b]
  | .xorEbGb e g => encE Reg8.bits g.bits 0x30#8 e
  | .xorEwGw e g => encE Reg16.bits g.bits 0x31#8 e
  | .xorGbEb g e => encE Reg8.bits g.bits 0x32#8 e
  | .xorGwEw g e => encE Reg16.bits g.bits 0x33#8 e
  | .xorAlIb b => [0x34#8, b]
  | .xorAxIw w => [0x35#8, Word.lo w, Word.hi w]
  | .xorEbIb e b => encE Reg8.bits 6#3 0x80#8 e ++ [b]
  | .xorEwIw e w => encE Reg16.bits 6#3 0x81#8 e ++ [Word.lo w, Word.hi w]
  | .xorEwIb e b => encE Reg16.bits 6#3 0x83#8 e ++ [b]
  | .cmpEbGb e g => encE Reg8.bits g.bits 0x38#8 e
  | .cmpEwGw e g => encE Reg16.bits g.bits 0x39#8 e
  | .cmpGbEb g e => encE Reg8.bits g.bits 0x3A#8 e
  | .cmpGwEw g e => encE Reg16.bits g.bits 0x3B#8 e
  | .cmpAlIb b => [0x3C#8, b]
  | .cmpAxIw w => [0x3D#8, Word.lo w, Word.hi w]
  | .cmpEbIb e b => encE Reg8.bits 7#3 0x80#8 e ++ [b]
  | .cmpEwIw e w => encE Reg16.bits 7#3 0x81#8 e ++ [Word.lo w, Word.hi w]
  | .cmpEwIb e b => encE Reg16.bits 7#3 0x83#8 e ++ [b]
  | .incR16 r => [opPlus 0x40#8 r.bits]
  | .incEb e => encE Reg8.bits 0#3 0xFE#8 e
  | .incEw e => encE Reg16.bits 0#3 0xFF#8 e
  | .decR16 r => [opPlus 0x48#8 r.bits]
  | .decEb e => encE Reg8.bits 1#3 0xFE#8 e
  | .decEw e => encE Reg16.bits 1#3 0xFF#8 e
  | .negEb e => encE Reg8.bits 3#3 0xF6#8 e
  | .negEw e => encE Reg16.bits 3#3 0xF7#8 e
  | .mulEb e => encE Reg8.bits 4#3 0xF6#8 e
  | .mulEw e => encE Reg16.bits 4#3 0xF7#8 e
  | .imulEb e => encE Reg8.bits 5#3 0xF6#8 e
  | .imulEw e => encE Reg16.bits 5#3 0xF7#8 e
  | .divEb e => encE Reg8.bits 6#3 0xF6#8 e
  | .divEw e => encE Reg16.bits 6#3 0xF7#8 e
  | .idivEb e => encE Reg8.bits 7#3 0xF6#8 e
  | .idivEw e => encE Reg16.bits 7#3 0xF7#8 e
  | .cbw => [0x98#8]
  | .cwd => [0x99#8]
  | .daa => [0x27#8]
  | .das => [0x2F#8]
  | .aaa => [0x37#8]
  | .aas => [0x3F#8]
  | .aamIb b => [0xD4#8, b]
  | .aadIb b => [0xD5#8, b]
  | .testEbGb e g => encE Reg8.bits g.bits 0x84#8 e
  | .testEwGw e g => encE Reg16.bits g.bits 0x85#8 e
  | .testAlIb b => [0xA8#8, b]
  | .testAxIw w => [0xA9#8, Word.lo w, Word.hi w]
  | .testEbIb e b => encE Reg8.bits 0#3 0xF6#8 e ++ [b]
  | .testEwIw e w => encE Reg16.bits 0#3 0xF7#8 e ++ [Word.lo w, Word.hi w]
  | .notEb e => encE Reg8.bits 2#3 0xF6#8 e
  | .notEw e => encE Reg16.bits 2#3 0xF7#8 e
  | .rolEb1 e => encE Reg8.bits 0#3 0xD0#8 e
  | .rolEw1 e => encE Reg16.bits 0#3 0xD1#8 e
  | .rolEbCl e => encE Reg8.bits 0#3 0xD2#8 e
  | .rolEwCl e => encE Reg16.bits 0#3 0xD3#8 e
  | .rolEbIb e b => encE Reg8.bits 0#3 0xC0#8 e ++ [b]
  | .rolEwIb e b => encE Reg16.bits 0#3 0xC1#8 e ++ [b]
  | .rorEb1 e => encE Reg8.bits 1#3 0xD0#8 e
  | .rorEw1 e => encE Reg16.bits 1#3 0xD1#8 e
  | .rorEbCl e => encE Reg8.bits 1#3 0xD2#8 e
  | .rorEwCl e => encE Reg16.bits 1#3 0xD3#8 e
  | .rorEbIb e b => encE Reg8.bits 1#3 0xC0#8 e ++ [b]
  | .rorEwIb e b => encE Reg16.bits 1#3 0xC1#8 e ++ [b]
  | .rclEb1 e => encE Reg8.bits 2#3 0xD0#8 e
  | .rclEw1 e => encE Reg16.bits 2#3 0xD1#8 e
  | .rclEbCl e => encE Reg8.bits 2#3 0xD2#8 e
  | .rclEwCl e => encE Reg16.bits 2#3 0xD3#8 e
  | .rclEbIb e b => encE Reg8.bits 2#3 0xC0#8 e ++ [b]
  | .rclEwIb e b => encE Reg16.bits 2#3 0xC1#8 e ++ [b]
  | .rcrEb1 e => encE Reg8.bits 3#3 0xD0#8 e
  | .rcrEw1 e => encE Reg16.bits 3#3 0xD1#8 e
  | .rcrEbCl e => encE Reg8.bits 3#3 0xD2#8 e
  | .rcrEwCl e => encE Reg16.bits 3#3 0xD3#8 e
  | .rcrEbIb e b => encE Reg8.bits 3#3 0xC0#8 e ++ [b]
  | .rcrEwIb e b => encE Reg16.bits 3#3 0xC1#8 e ++ [b]
  | .shlEb1 e => encE Reg8.bits 4#3 0xD0#8 e
  | .shlEw1 e => encE Reg16.bits 4#3 0xD1#8 e
  | .shlEbCl e => encE Reg8.bits 4#3 0xD2#8 e
  | .shlEwCl e => encE Reg16.bits 4#3 0xD3#8 e
  | .shlEbIb e b => encE Reg8.bits 4#3 0xC0#8 e ++ [b]
  | .shlEwIb e b => encE Reg16.bits 4#3 0xC1#8 e ++ [b]
  | .shrEb1 e => encE Reg8.bits 5#3 0xD0#8 e
  | .shrEw1 e => encE Reg16.bits 5#3 0xD1#8 e
  | .shrEbCl e => encE Reg8.bits 5#3 0xD2#8 e
  | .shrEwCl e => encE Reg16.bits 5#3 0xD3#8 e
  | .shrEbIb e b => encE Reg8.bits 5#3 0xC0#8 e ++ [b]
  | .shrEwIb e b => encE Reg16.bits 5#3 0xC1#8 e ++ [b]
  | .sarEb1 e => encE Reg8.bits 7#3 0xD0#8 e
  | .sarEw1 e => encE Reg16.bits 7#3 0xD1#8 e
  | .sarEbCl e => encE Reg8.bits 7#3 0xD2#8 e
  | .sarEwCl e => encE Reg16.bits 7#3 0xD3#8 e
  | .sarEbIb e b => encE Reg8.bits 7#3 0xC0#8 e ++ [b]
  | .sarEwIb e b => encE Reg16.bits 7#3 0xC1#8 e ++ [b]
  | .movEbGb e g => encE Reg8.bits g.bits 0x88#8 e
  | .movEwGw e g => encE Reg16.bits g.bits 0x89#8 e
  | .movGbEb g e => encE Reg8.bits g.bits 0x8A#8 e
  | .movGwEw g e => encE Reg16.bits g.bits 0x8B#8 e
  | .movEbIb e b => encE Reg8.bits 0#3 0xC6#8 e ++ [b]
  | .movEwIw e w => encE Reg16.bits 0#3 0xC7#8 e ++ [Word.lo w, Word.hi w]
  | .movR8Ib r b => [opPlus 0xB0#8 r.bits, b]
  | .movR16Iw r w => [opPlus 0xB8#8 r.bits, Word.lo w, Word.hi w]
  | .movAlMoffs off => [0xA0#8, Word.lo off, Word.hi off]
  | .movAxMoffs off => [0xA1#8, Word.lo off, Word.hi off]
  | .movMoffsAl off => [0xA2#8, Word.lo off, Word.hi off]
  | .movMoffsAx off => [0xA3#8, Word.lo off, Word.hi off]
  | .movEwSw e sr => encE Reg16.bits sr.bits 0x8C#8 e
  | .movEsEw e => encE Reg16.bits 0#3 0x8E#8 e
  | .movSsEw e => encE Reg16.bits 2#3 0x8E#8 e
  | .movDsEw e => encE Reg16.bits 3#3 0x8E#8 e
  | .pushR16 r => [opPlus 0x50#8 r.bits]
  | .pushEw e => encE Reg16.bits 6#3 0xFF#8 e
  | .pushEs => [0x06#8]
  | .pushCs => [0x0E#8]
  | .pushSs => [0x16#8]
  | .pushDs => [0x1E#8]
  | .popR16 r => [opPlus 0x58#8 r.bits]
  | .popEw e => encE Reg16.bits 0#3 0x8F#8 e
  | .popEs => [0x07#8]
  | .popSs => [0x17#8]
  | .popDs => [0x1F#8]
  | .xchgEbGb e g => encE Reg8.bits g.bits 0x86#8 e
  | .xchgEwGw e g => encE Reg16.bits g.bits 0x87#8 e
  | .xchgAxCx => [0x91#8]
  | .xchgAxDx => [0x92#8]
  | .xchgAxBx => [0x93#8]
  | .xchgAxSp => [0x94#8]
  | .xchgAxBp => [0x95#8]
  | .xchgAxSi => [0x96#8]
  | .xchgAxDi => [0x97#8]
  | .xlat => [0xD7#8]
  | .leaGwM g m => encM g.bits 0x8D#8 m
  | .ldsGwM g m => encM g.bits 0xC5#8 m
  | .lesGwM g m => encM g.bits 0xC4#8 m
  | .lahf => [0x9F#8]
  | .sahf => [0x9E#8]
  | .pushf => [0x9C#8]
  | .popf => [0x9D#8]
  | .inAlIb b => [0xE4#8, b]
  | .inAxIb b => [0xE5#8, b]
  | .inAlDx => [0xEC#8]
  | .inAxDx => [0xED#8]
  | .outIbAl b => [0xE6#8, b]
  | .outIbAx b => [0xE7#8, b]
  | .outDxAl => [0xEE#8]
  | .outDxAx => [0xEF#8]
  | .jmpCb d => [0xEB#8, d]
  | .jmpCw d => [0xE9#8, Word.lo d, Word.hi d]
  | .jmpEw e => encE Reg16.bits 4#3 0xFF#8 e
  | .jmpFar off sel => [0xEA#8, Word.lo off, Word.hi off, Word.lo sel, Word.hi sel]
  | .jmpM m => encM 5#3 0xFF#8 m
  | .callCw d => [0xE8#8, Word.lo d, Word.hi d]
  | .callEw e => encE Reg16.bits 2#3 0xFF#8 e
  | .callFar off sel => [0x9A#8, Word.lo off, Word.hi off, Word.lo sel, Word.hi sel]
  | .callM m => encM 3#3 0xFF#8 m
  | .ret => [0xC3#8]
  | .retIw w => [0xC2#8, Word.lo w, Word.hi w]
  | .retf => [0xCB#8]
  | .retfIw w => [0xCA#8, Word.lo w, Word.hi w]
  | .jo d => [0x70#8, d]
  | .jno d => [0x71#8, d]
  | .jb d => [0x72#8, d]
  | .jnb d => [0x73#8, d]
  | .je d => [0x74#8, d]
  | .jne d => [0x75#8, d]
  | .jbe d => [0x76#8, d]
  | .ja d => [0x77#8, d]
  | .js d => [0x78#8, d]
  | .jns d => [0x79#8, d]
  | .jp d => [0x7A#8, d]
  | .jnp d => [0x7B#8, d]
  | .jl d => [0x7C#8, d]
  | .jge d => [0x7D#8, d]
  | .jle d => [0x7E#8, d]
  | .jg d => [0x7F#8, d]
  | .loop d => [0xE2#8, d]
  | .loope d => [0xE1#8, d]
  | .loopne d => [0xE0#8, d]
  | .jcxz d => [0xE3#8, d]
  | .intIb b => [0xCD#8, b]
  | .int3 => [0xCC#8]
  | .into => [0xCE#8]
  | .iret => [0xCF#8]
  | .movsb => [0xA4#8]
  | .movsw => [0xA5#8]
  | .lodsb => [0xAC#8]
  | .lodsw => [0xAD#8]
  | .cmpsb => [0xA6#8]
  | .cmpsw => [0xA7#8]
  | .scasb => [0xAE#8]
  | .scasw => [0xAF#8]
  | .stosb => [0xAA#8]
  | .stosw => [0xAB#8]
  | .clc => [0xF8#8]
  | .stc => [0xF9#8]
  | .cmc => [0xF5#8]
  | .cld => [0xFC#8]
  | .std => [0xFD#8]
  | .cli => [0xFA#8]
  | .sti => [0xFB#8]
  | .nop => [0x90#8]
  | .hlt => [0xF4#8]
  | .wait => [0x9B#8]
  | .esc op reg e => encE Reg16.bits reg (opPlus 0xD8#8 op) e
  | .segEs => [0x26#8]
  | .segCs => [0x2E#8]
  | .segSs => [0x36#8]
  | .segDs => [0x3E#8]
  | .lock => [0xF0#8]
  | .repne => [0xF2#8]
  | .rep => [0xF3#8]
  | .invalid raw => raw
  | .pusha => [0x60#8]
  | .popa => [0x61#8]
  | .boundGwM g m => encM g.bits 0x62#8 m
  | .pushIw w => [0x68#8, Word.lo w, Word.hi w]
  | .pushIb b => [0x6A#8, b]
  | .imulGwEwIw g e w => encE Reg16.bits g.bits 0x69#8 e ++ [Word.lo w, Word.hi w]
  | .imulGwEwIb g e b => encE Reg16.bits g.bits 0x6B#8 e ++ [b]
  | .insb => [0x6C#8]
  | .insw => [0x6D#8]
  | .outsb => [0x6E#8]
  | .outsw => [0x6F#8]
  | .enterIwIb size level => [0xC8#8, Word.lo size, Word.hi size, level]
  | .leave => [0xC9#8]

/-- The bytes of a whole instruction, those of R94 first (R93). -/
def Decoded.bytes (d : Decoded) : List Byte := d.prefixes.map Prefix.byte ++ encode d.op

/-- Its length `len` in bytes (R109). -/
def Decoded.len (d : Decoded) : Nat := d.bytes.length

/-! ## The opcode table's words -/

/-- The bytes, lowest address first, of an instruction whose table word is `w` of `nbits` bits, and zeros up to the
longest instruction. The table puts the opcode byte in bits 15 to 8 and the next byte in bits 7 to 0 (R132); bytes
after these two, if a word has them, lie above (DEDUCED, log entry 10). -/
def tableBytes (nbits w : Nat) : List Byte :=
  let first : List Byte :=
    if nbits ≤ 8 then [BitVec.ofNat 8 w] else [BitVec.ofNat 8 (w / 256), BitVec.ofNat 8 w]
  let more : List Byte := (List.range (nbits / 8 - 2)).map fun k => BitVec.ofNat 8 (w / 256 ^ (k + 2))
  (first ++ more ++ List.replicate maxLength 0#8).take maxLength

/-- The value of `ISA_186` under which the table's row for these bytes is an instruction: the 186 rows add
instructions and change no row that applies always (R132, log entry 10). -/
def needs186 (bs : List Byte) : Bool := decide (decode false bs ≠ decode true bs)

/-- The row of the opcode table that the decoder reads first from a table word: the byte of R94, if the word begins
with one (their rows are "selected only while scanning prefixes"), else the instruction. -/
def decodeTableWord (nbits w : Nat) : Option Instr :=
  match decode true (tableBytes nbits w) with
  | .ok (⟨p :: _, _⟩, _) => some p.instr
  | .ok (⟨[], i⟩, _) => some i
  | .error _ => none

end Sys2Proof
end

