-- ==== Sys2Proof/Machine/State.lean ====
section
/-! DEFINITION. The state of the machine as plain data (spec/10_state.md, 20_memory.md), its reset value (R46), and
the ways a step can stop. -/

namespace Sys2Proof.Machine

/-- The eight general registers (R20). The 8-bit registers are views of the first four (R22). -/
structure Regs where
  ax : Word
  cx : Word
  dx : Word
  bx : Word
  sp : Word
  bp : Word
  si : Word
  di : Word
deriving DecidableEq, Repr, Inhabited

/-- The four segment registers (R26). -/
structure Segs where
  es : Word
  cs : Word
  ss : Word
  ds : Word
deriving DecidableEq, Repr, Inhabited

/-- The nine flags (R30). The 16-bit FLAGS image is computed from them (R31). -/
structure Flags where
  CF : Bool
  PF : Bool
  AF : Bool
  ZF : Bool
  SF : Bool
  TF : Bool
  IF : Bool
  DF : Bool
  OF : Bool
deriving DecidableEq, Repr, Inhabited

/-- The fields `segovr`, `rep` and `lock` of the decoded instruction (30_encoding.md R90, R95), while that one
instruction executes; between steps all three are absent (10_state.md R44, log entry 3). -/
structure Pfx where
  seg : Option SReg
  rep : Option Rep
  lock : Bool
deriving DecidableEq, Repr, Inhabited

/-- No byte of R94 was seen. -/
def Pfx.none : Pfx := { seg := .none, rep := .none, lock := false }

/-- One transaction of the I/O port (00_scope.md R6): the port, the width and the value read or written. -/
inductive IoEvent where
  | read8 (port : Word) (v : Byte)
  | read16 (port : Word) (v : Word)
  | write8 (port : Word) (v : Byte)
  | write16 (port : Word) (v : Word)
deriving DecidableEq, Repr

/-- Memory (R61): the bytes that differ from `Config.unwritten`, by physical address, addresses strictly rising. -/
abbrev Memory := List Host.Cell

/-- The state. The first seven fields are the spec's; `mem` is the store behind the memory port (00_scope.md R5);
the last four are the model's own (log entries 2, 3, 4, 7). -/
structure State where
  regs : Regs
  segs : Segs
  ip : Word
  flags : Flags
  /-- The VM bit (R32): no rule reads or writes it. -/
  vm : Bool
  /-- Bit `n` is `handler[n]`: a host handler is registered for vector `n` (R42). -/
  handler : BitVec 256
  /-- The halted flag (R43). -/
  halted : Bool
  mem : Memory
  /-- The parameter `ISA_186` of this machine (00_scope.md R10): no instruction reads or changes it (46_ext186.md
  R380). -/
  isa186 : Bool
  /-- The bytes of R94 of the instruction being executed; `Pfx.none` between steps. -/
  pfx : Pfx
  /-- The index of the next free value (10_state.md R38): the model's own counter. -/
  draws : Nat
  /-- The I/O transactions issued so far, latest first (20_memory.md R67). -/
  io : List IoEvent
deriving DecidableEq, Repr, Inhabited

/-- Why a step stops. -/
inductive Fault where
  /-- Raised by `step` when `halted` = 1: there is no step (00_scope.md R4, R11). SAFE: the spec gives no next
  state (log entry 8). -/
  | halted
deriving DecidableEq, Repr

/-- Why an instruction has no meaning. -/
inductive Refusal where
  /-- Raised by an arm of `exec` whose instruction has no meaning yet. SAFE: the machine stops. No arm raises it. -/
  | notModelled (mnemonic : String)
  /-- Raised by `step` if the fetched bytes ended inside an instruction. SAFE, and never raised: the fetch delivers the
  longest instruction's bytes (lemma `fetch_decodes`, log entry 9). -/
  | truncatedFetch
deriving DecidableEq, Repr

/-- What a host handler leaves (60_exceptions.md R415): it may write the general and segment registers, IP, the
flags, memory, the handler table and `halted`. `stores` are its memory writes in order, each a physical address and
the byte written. -/
structure HostAnswer where
  regs : Regs
  segs : Segs
  ip : Word
  flags : Flags
  handler : BitVec 256
  halted : Bool
  stores : List (BitVec 20 × Byte)
deriving DecidableEq, Repr, Inhabited

/-- The machine right after reset (R46, 70_reset_and_hazards.md R450): every register, flag and handler bit 0.
Memory lists nothing (log entry 1); `isa186` is the parameter's default; the model's own fields start empty (log
entry 4: no statement rests on `draws`). -/
def State.reset : State where
  regs := { ax := 0#16, cx := 0#16, dx := 0#16, bx := 0#16, sp := 0#16, bp := 0#16, si := 0#16, di := 0#16 }
  segs := { es := 0#16, cs := 0#16, ss := 0#16, ds := 0#16 }
  ip := 0#16
  flags := { CF := false, PF := false, AF := false, ZF := false, SF := false, TF := false, IF := false,
             DF := false, OF := false }
  vm := false
  handler := 0#256
  halted := false
  mem := []
  isa186 := Config.isa186Default
  pfx := Pfx.none
  draws := 0
  io := []

end Sys2Proof.Machine

namespace Sys2Proof

/-- FREE VALUE (00_scope.md R7, 60_exceptions.md R415): what the host handler of a vector does, asked at the `n`-th
draw in a state. No body: nothing can be proved of it (log entry 5). -/
opaque Config.hostService : Nat → Byte → Machine.State → Machine.HostAnswer

end Sys2Proof
end

