-- ==== Sys2Proof/Machine/Flags.lean ====
section
/-! DEFINITION. The flags_update_engine (spec/10_state.md R30 to R38): the FLAGS image and its inverse, and the
flag contracts of addition, subtraction, logic, and sign-zero-parity, at any operand width. -/

namespace Sys2Proof.Machine

/-- `FlagsImage()` (R31). -/
def Flags.image (f : Flags) : Word :=
  Config.flagsFixed
    ||| (BitVec.ofBool f.CF).setWidth 16
    ||| ((BitVec.ofBool f.PF).setWidth 16 <<< 2)
    ||| ((BitVec.ofBool f.AF).setWidth 16 <<< 4)
    ||| ((BitVec.ofBool f.ZF).setWidth 16 <<< 6)
    ||| ((BitVec.ofBool f.SF).setWidth 16 <<< 7)
    ||| ((BitVec.ofBool f.TF).setWidth 16 <<< 8)
    ||| ((BitVec.ofBool f.IF).setWidth 16 <<< 9)
    ||| ((BitVec.ofBool f.DF).setWidth 16 <<< 10)
    ||| ((BitVec.ofBool f.OF).setWidth 16 <<< 11)

/-- `SetFlagsFromImage(v)` (R31): bits 1, 3, 5 and 12 to 15 are ignored. -/
def Flags.ofImage (v : Word) : Flags where
  CF := v.getLsbD 0
  PF := v.getLsbD 2
  AF := v.getLsbD 4
  ZF := v.getLsbD 6
  SF := v.getLsbD 7
  TF := v.getLsbD 8
  IF := v.getLsbD 9
  DF := v.getLsbD 10
  OF := v.getLsbD 11

/-- SAHF's part of the image (42_data_movement.md R246): SF, ZF, AF, PF, CF from a byte. -/
def Flags.setLow (f : Flags) (v : Byte) : Flags :=
  { f with SF := v.getLsbD 7, ZF := v.getLsbD 6, AF := v.getLsbD 4, PF := v.getLsbD 2, CF := v.getLsbD 0 }

/-- `parity_even(b)` (00_scope.md R12): an even number of one bits. -/
def parityEven (b : Byte) : Bool :=
  !(b.getLsbD 0 ^^ b.getLsbD 1 ^^ b.getLsbD 2 ^^ b.getLsbD 3 ^^ b.getLsbD 4 ^^ b.getLsbD 5 ^^ b.getLsbD 6 ^^ b.getLsbD 7)

/-- `SetSZP_w(r)` (R37); the parity is of the low byte. -/
def Flags.setSZP {w : Nat} (r : BitVec w) (f : Flags) : Flags :=
  { f with ZF := r == 0#w, SF := r.msb, PF := parityEven (r.setWidth 8) }

/-- The result of `Add_w(a, b, c)` (R34). -/
def addResult {w : Nat} (a b : BitVec w) (c : Bool) : BitVec w :=
  BitVec.ofNat w (a.toNat + b.toNat + c.toNat)

/-- The flags of `Add_w(a, b, c)` (R34): the exact three-input sum decides CF and AF; OF is true signed overflow. -/
def addFlags {w : Nat} (a b : BitVec w) (c : Bool) (f : Flags) : Flags :=
  let r := addResult a b c
  { f.setSZP r with
    CF := decide (2 ^ w ≤ a.toNat + b.toNat + c.toNat)
    AF := decide (16 ≤ a.toNat % 16 + b.toNat % 16 + c.toNat)
    OF := a.msb == b.msb && r.msb != a.msb }

/-- The result of `Sub_w(a, b, c)` (R35). -/
def subResult {w : Nat} (a b : BitVec w) (c : Bool) : BitVec w :=
  BitVec.ofInt w ((a.toNat : Int) - (b.toNat : Int) - (c.toNat : Int))

/-- The flags of `Sub_w(a, b, c)` (R35): CF is the borrow, AF the borrow out of the low nibble. -/
def subFlags {w : Nat} (a b : BitVec w) (c : Bool) (f : Flags) : Flags :=
  let r := subResult a b c
  { f.setSZP r with
    CF := decide (a.toNat < b.toNat + c.toNat)
    AF := decide (a.toNat % 16 < b.toNat % 16 + c.toNat)
    OF := a.msb != b.msb && r.msb != a.msb }

/-- The flags of `Logic_w(r)` (R36): CF, OF and AF are 0. -/
def logicFlags {w : Nat} (r : BitVec w) (f : Flags) : Flags :=
  { f.setSZP r with CF := false, OF := false, AF := false }

/-- The eight two-operand operations (40_arithmetic.md R140). -/
inductive AluOp where
  | add | or | adc | sbb | and | sub | xor | cmp
deriving DecidableEq, Repr

/-- `F_w(a, b [, CF])` (R140): the result of an operation, from the destination, the source and the flags before. -/
def AluOp.result {w : Nat} (op : AluOp) (a b : BitVec w) (f : Flags) : BitVec w :=
  match op with
  | .add => addResult a b false
  | .or => a ||| b
  | .adc => addResult a b f.CF
  | .sbb => subResult a b f.CF
  | .and => a &&& b
  | .sub => subResult a b false
  | .xor => a ^^^ b
  | .cmp => subResult a b false

/-- The flags of an operation (R141 to R145, R190 to R192). -/
def AluOp.flags {w : Nat} (op : AluOp) (a b : BitVec w) (f : Flags) : Flags :=
  match op with
  | .add => addFlags a b false f
  | .or => logicFlags (a ||| b) f
  | .adc => addFlags a b f.CF f
  | .sbb => subFlags a b f.CF f
  | .and => logicFlags (a &&& b) f
  | .sub => subFlags a b false f
  | .xor => logicFlags (a ^^^ b) f
  | .cmp => subFlags a b false f

/-- Is the result written to the destination? All but CMP (R145). -/
def AluOp.stores : AluOp → Bool
  | .add => true
  | .or => true
  | .adc => true
  | .sbb => true
  | .and => true
  | .sub => true
  | .xor => true
  | .cmp => false

/-- The flags of INC (R148): those of adding 1, CF kept. -/
def incFlags {w : Nat} (a : BitVec w) (f : Flags) : Flags := { addFlags a 1#w false f with CF := f.CF }

/-- The flags of DEC (R149): those of subtracting 1, CF kept. -/
def decFlags {w : Nat} (a : BitVec w) (f : Flags) : Flags := { subFlags a 1#w false f with CF := f.CF }

/-- The sixteen conditions of 43_control_transfer.md R286, by the mnemonics of the opcode map. -/
inductive Cond where
  | o | no | b | nb | e | ne | be | a | s | ns | p | np | l | ge | le | g
deriving DecidableEq, Repr

/-- `cond(cc)` (R286). -/
def Cond.holds (c : Cond) (f : Flags) : Bool :=
  match c with
  | .o => f.OF
  | .no => !f.OF
  | .b => f.CF
  | .nb => !f.CF
  | .e => f.ZF
  | .ne => !f.ZF
  | .be => f.CF || f.ZF
  | .a => !f.CF && !f.ZF
  | .s => f.SF
  | .ns => !f.SF
  | .p => f.PF
  | .np => !f.PF
  | .l => f.SF != f.OF
  | .ge => f.SF == f.OF
  | .le => f.ZF || f.SF != f.OF
  | .g => !f.ZF && f.SF == f.OF

end Sys2Proof.Machine
end

