-- ==== Sys2Proof/Machine/Ops.lean ====
section
/-! DEFINITION. The named operations over memory, registers, the stack, the interrupt table and the ports, interrupt
entry and its return, and the fetch (spec/10_state.md, 20_memory.md, 30_encoding.md R92, 60_exceptions.md). -/

namespace Sys2Proof.Machine

/-! ## The byte store (00_scope.md R5, 20_memory.md R61) -/

/-- `PhysRead(p)`: the byte at a physical address. An address not listed reads `Config.unwritten`. -/
def Memory.read (m : Memory) (p : Nat) : Byte :=
  match m with
  | [] => Config.unwritten
  | (k, v) :: rest => if p = k then v else Memory.read rest p

/-- The memory without an address (which then reads `Config.unwritten`). -/
def Memory.erase (m : Memory) (p : Nat) : Memory :=
  match m with
  | [] => []
  | (k, v) :: rest => if p = k then Memory.erase rest p else (k, v) :: Memory.erase rest p

/-- The memory with a byte listed at an address, addresses kept rising. -/
def Memory.insert (m : Memory) (p : Nat) (b : Byte) : Memory :=
  match m with
  | [] => [(p, b)]
  | (k, v) :: rest =>
    if p = k then (p, b) :: rest
    else if p < k then (p, b) :: (k, v) :: rest
    else (k, v) :: Memory.insert rest p b

/-- `PhysWrite(p, b)`: writing what an unlisted address reads as takes the address off the list, so that equal
memories are equal lists. -/
def Memory.write (m : Memory) (p : Nat) (b : Byte) : Memory :=
  if b = Config.unwritten then m.erase p else m.insert p b

/-- Every listed address is at least `lo`, they rise strictly, lie below `Config.memSize`, and list no byte equal
to `Config.unwritten`. -/
def Memory.wfFrom (lo : Nat) : Memory → Bool
  | [] => true
  | (k, v) :: rest => decide (lo ≤ k) && decide (k < Config.memSize) && v != Config.unwritten && Memory.wfFrom (k + 1) rest

/-- The canonical form of memory. -/
def Memory.wf (m : Memory) : Bool := m.wfFrom 0

/-- `Phys(seg, off)` (R60). -/
def phys (seg off : Word) : Nat := (seg.toNat * 16 + off.toNat) % Config.memSize

/-- `MemRead(seg:off, 1)` (R64). -/
def State.read8 (s : State) (seg off : Word) : Byte := s.mem.read (phys seg off)

/-- `MemRead(seg:off, 2)` (R64): the high byte at the next offset, wrapped inside the segment. -/
def State.read16 (s : State) (seg off : Word) : Word :=
  Word.ofBytes (s.read8 seg off) (s.read8 seg (off + 1#16))

/-- `MemWrite(seg:off, 1, v)` (R65). -/
def State.write8 (s : State) (seg off : Word) (v : Byte) : State := { s with mem := s.mem.write (phys seg off) v }

/-- `MemWrite(seg:off, 2, v)` (R65): the low byte first, the high byte at the next offset. -/
def State.write16 (s : State) (seg off : Word) (v : Word) : State :=
  (s.write8 seg off (Word.lo v)).write8 seg (off + 1#16) (Word.hi v)

/-! ## Registers (10_state.md R20 to R28) -/

/-- `R16[r]` in a register file. -/
def Regs.get (g : Regs) : Reg16 → Word
  | .ax => g.ax
  | .cx => g.cx
  | .dx => g.dx
  | .bx => g.bx
  | .sp => g.sp
  | .bp => g.bp
  | .si => g.si
  | .di => g.di

/-- `R16[r] <- v` in a register file. -/
def Regs.set (g : Regs) (r : Reg16) (v : Word) : Regs :=
  match r with
  | .ax => { g with ax := v }
  | .cx => { g with cx := v }
  | .dx => { g with dx := v }
  | .bx => { g with bx := v }
  | .sp => { g with sp := v }
  | .bp => { g with bp := v }
  | .si => { g with si := v }
  | .di => { g with di := v }

/-- `SR[r]` in a register file. -/
def Segs.get (g : Segs) : SReg → Word
  | .es => g.es
  | .cs => g.cs
  | .ss => g.ss
  | .ds => g.ds

/-- `SR[r] <- v` in a register file. -/
def Segs.set (g : Segs) (r : SReg) (v : Word) : Segs :=
  match r with
  | .es => { g with es := v }
  | .cs => { g with cs := v }
  | .ss => { g with ss := v }
  | .ds => { g with ds := v }

/-- `R16[r]` (R20). -/
def State.reg16 (s : State) (r : Reg16) : Word := s.regs.get r

/-- `R16[r] <- v` (R21). -/
def State.setReg16 (s : State) (r : Reg16) (v : Word) : State := { s with regs := s.regs.set r v }

/-- The 16-bit register that backs an 8-bit view (R22). -/
def Reg8.home : Reg8 → Reg16
  | .al => .ax
  | .cl => .cx
  | .dl => .dx
  | .bl => .bx
  | .ah => .ax
  | .ch => .cx
  | .dh => .dx
  | .bh => .bx

/-- Is an 8-bit view the high half of its register (R22)? -/
def Reg8.isHigh : Reg8 → Bool
  | .al => false
  | .cl => false
  | .dl => false
  | .bl => false
  | .ah => true
  | .ch => true
  | .dh => true
  | .bh => true

/-- `R8[r]` (R22). -/
def State.reg8 (s : State) (r : Reg8) : Byte :=
  if Reg8.isHigh r then Word.hi (s.reg16 (Reg8.home r)) else Word.lo (s.reg16 (Reg8.home r))

/-- `R8[r] <- v` (R22): the other half of the backing word stays. -/
def State.setReg8 (s : State) (r : Reg8) (v : Byte) : State :=
  let h := Reg8.home r
  let old := s.reg16 h
  s.setReg16 h (if Reg8.isHigh r then Word.ofBytes (Word.lo old) v else Word.ofBytes v (Word.hi old))

/-- `SR[r]` (R26). -/
def State.seg (s : State) (r : SReg) : Word := s.segs.get r

/-- `SR[r] <- v` (R26). -/
def State.setSeg (s : State) (r : SReg) (v : Word) : State := { s with segs := s.segs.set r v }

/-- `IP <- v` (R28). -/
def State.setIp (s : State) (v : Word) : State := { s with ip := v }

/-- The flags replaced. -/
def State.setFlags (s : State) (f : Flags) : State := { s with flags := f }

/-- The fields of R90 replaced (R95). -/
def State.setPfx (s : State) (p : Pfx) : State := { s with pfx := p }

/-- `halted <- 1` (R43). -/
def State.halt (s : State) : State := { s with halted := true }

/-! ## The stack (R70, R71) -/

/-- `Push16(v)`: SP down by two, then the word at SS:SP. -/
def State.push16 (s : State) (v : Word) : State :=
  let sp := s.reg16 .sp - 2#16
  (s.setReg16 .sp sp).write16 (s.seg .ss) sp v

/-- The word `Pop16()` returns: the one at SS:SP. -/
def State.top16 (s : State) : Word := s.read16 (s.seg .ss) (s.reg16 .sp)

/-- What `Pop16()` does to SP: up by two. -/
def State.drop16 (s : State) : State := s.setReg16 .sp (s.reg16 .sp + 2#16)

/-! ## Free values (R38, 00_scope.md R6) -/

/-- The undefined flag number `k` of this execution: one independent draw each (93_implementation_defined.md U1). -/
def State.freeFlag (s : State) (k : Nat) : Bool := Config.freeFlag (s.draws + k)

/-- The state after `k` draws. -/
def State.drew (s : State) (k : Nat) : State := { s with draws := s.draws + k }

/-! ## Ports (00_scope.md R6, 42_data_movement.md R250, R251) -/

/-- The value of `IoRead(port, 1)`. -/
def State.ioValue8 (s : State) (port : Word) : Byte := Config.ioRead8 s.draws port

/-- The value of `IoRead(port, 2)`. -/
def State.ioValue16 (s : State) (port : Word) : Word := Config.ioRead16 s.draws port

/-- A transaction of the I/O port, recorded. -/
def State.logIo (s : State) (e : IoEvent) : State := { s with io := e :: s.io }

/-- `IoRead(port, 1)`, its transaction recorded and its draw used up. -/
def State.ioRead8 (s : State) (port : Word) : State := (s.logIo (.read8 port (s.ioValue8 port))).drew 1

/-- `IoRead(port, 2)`. -/
def State.ioRead16 (s : State) (port : Word) : State := (s.logIo (.read16 port (s.ioValue16 port))).drew 1

/-- `IoWrite(port, 1, v)`. -/
def State.ioWrite8 (s : State) (port : Word) (v : Byte) : State := s.logIo (.write8 port v)

/-- `IoWrite(port, 2, v)`. -/
def State.ioWrite16 (s : State) (port : Word) (v : Word) : State := s.logIo (.write16 port v)

/-! ## Interrupts (60_exceptions.md) -/

/-- The IRET sequence (43_control_transfer.md R300): IP, CS and the FLAGS image popped. -/
def State.iret (s : State) : State :=
  let s1 := s.drop16.setIp s.top16
  let s2 := s1.drop16.setSeg .cs s1.top16
  s2.drop16.setFlags (Flags.ofImage s2.top16)

/-- The memory after a host handler's writes, in order. -/
def Memory.storeAll (m : Memory) : List (BitVec 20 × Byte) → Memory
  | [] => m
  | (p, b) :: rest => Memory.storeAll (m.write p.toNat b) rest

/-- The state a host handler's answer leaves (R415). -/
def State.afterHost (s : State) (h : HostAnswer) : State :=
  { s with regs := h.regs, segs := h.segs, ip := h.ip, flags := h.flags, handler := h.handler, halted := h.halted,
           mem := s.mem.storeAll h.stores }

/-- `HostService(n)` (00_scope.md R7): the oracle's answer, its draw used up. -/
def State.hostService (s : State) (n : Byte) : State :=
  (s.afterHost (Config.hostService s.draws n s)).drew 1

/-- The host handler sequence (R414): the call, then the IRET sequence on the stack as the handler left it. -/
def State.hostSequence (s : State) (n : Byte) : State := (s.hostService n).iret

/-- The word at two physical addresses of the vector table (R413). -/
def State.physWord (s : State) (p : Nat) : Word := Word.ofBytes (s.mem.read p) (s.mem.read (p + 1))

/-- The jump through vector `n` in memory (R413, 20_memory.md R75): offset word at `4n`, segment word at `4n + 2`. -/
def State.throughVector (s : State) (n : Byte) : State :=
  (s.setSeg .cs (s.physWord (4 * n.toNat + 2))).setIp (s.physWord (4 * n.toNat))

/-- `handler[n]` (10_state.md R42). -/
def State.hasHandler (s : State) (n : Byte) : Bool := s.handler.getLsbD n.toNat

/-- The three pushes of interrupt entry (R412): the FLAGS image, then TF and IF cleared, then CS and the advanced IP. -/
def State.pushFrame (s : State) : State :=
  let s1 := s.push16 s.flags.image
  let s2 := s1.setFlags { s1.flags with TF := false, IF := false }
  let s3 := s2.push16 (s2.seg .cs)
  s3.push16 s3.ip

/-- TAKING AN EXCEPTION: `raise Interrupt(n)` (R412). It ends the instruction that raised it. -/
def State.interrupt (s : State) (n : Byte) : State :=
  let s1 := s.pushFrame
  if s1.hasHandler n then s1.hostSequence n else s1.throughVector n

/-! ## Fetch and the frame of a step (00_scope.md R4, 30_encoding.md R92) -/

/-- The `n` bytes at CS:IP onward, each offset wrapped at 2^16 (R92), from `k` on. -/
def State.fetchFrom (s : State) (k : Nat) : Nat → List Byte
  | 0 => []
  | n + 1 => s.read8 (s.seg .cs) (s.ip + BitVec.ofNat 16 k) :: State.fetchFrom s (k + 1) n

/-- The bytes an instruction at CS:IP can have. -/
def State.fetch (s : State) : List Byte := s.fetchFrom 0 maxLength

/-- `decodeNext()` (R91): the instruction at CS:IP and the number of bytes consumed; it changes nothing. -/
def State.decodeNext (s : State) : Except DecodeError (Decoded × Nat) :=
  match decode s.isa186 s.fetch with
  | .ok (d, rest) => .ok (d, maxLength - rest.length)
  | .error e => .error e

/-- Before an instruction executes: nothing of an earlier instruction's R94 bytes is left (10_state.md R44), and IP is
advanced by the length (00_scope.md R4 (c)). -/
def State.advance (s : State) (len : Nat) : State := (s.setPfx Pfx.none).setIp (s.ip + BitVec.ofNat 16 len)

/-- After it: its R94 bytes are forgotten (10_state.md R44). -/
def State.endInstr (s : State) : State := s.setPfx Pfx.none

/-- The bytes stored at CS:IP onward, each offset wrapped at 2^16. -/
def State.storeCode (s : State) (off : Word) : List Byte → State
  | [] => s
  | b :: bs => State.storeCode (s.write8 (s.seg .cs) off b) (off + 1#16) bs

/-! ## Outcomes -/

/-- What a meaning answers. -/
abbrev Result := Host.Outcome State Fault Refusal

/-- Go on with the next state, if there is one. -/
def thenDo (o : Result) (k : State → Result) : Result :=
  match o with
  | .next s => k s
  | .fault r => .fault r
  | .refused r => .refused r

end Sys2Proof.Machine
end

