-- ==== Sys2Proof/Machine/Operands.lean ====
section
/-! DEFINITION. The operand_resolver (spec/30_encoding.md R96, R100 to R108): effective addresses, the segment of an
access, and the operand a ModRM byte names, resolved once and then read and written. -/

namespace Sys2Proof.Machine

/-- The value of an overridable access's segment register: the override's if there is one, else the default's
(R96, 20_memory.md R62). -/
def State.dataSeg (s : State) (dflt : SReg) : Word :=
  match s.pfx.seg with
  | some r => s.seg r
  | none => s.seg dflt

/-- Base plus index of an effective address (R102, R103). -/
def State.eaBase (s : State) : EABase → Word
  | .bxsi => s.reg16 .bx + s.reg16 .si
  | .bxdi => s.reg16 .bx + s.reg16 .di
  | .bpsi => s.reg16 .bp + s.reg16 .si
  | .bpdi => s.reg16 .bp + s.reg16 .di
  | .si => s.reg16 .si
  | .di => s.reg16 .di
  | .bp => s.reg16 .bp
  | .bx => s.reg16 .bx

/-- The default segment of a base: SS for the BP forms, else DS (R102). -/
def baseSeg : EABase → SReg
  | .bxsi => .ds
  | .bxdi => .ds
  | .bpsi => .ss
  | .bpdi => .ss
  | .si => .ds
  | .di => .ds
  | .bp => .ss
  | .bx => .ds

/-- `EA` (R103): base + index + displacement modulo 2^16; a byte displacement is sign-extended. -/
def State.ea (s : State) : MemForm → Word
  | .base b => s.eaBase b
  | .direct d => d
  | .disp8 b d => s.eaBase b + d.signExtend 16
  | .disp16 b d => s.eaBase b + d

/-- The default segment of a memory form (R102). -/
def formSeg : MemForm → SReg
  | .base b => baseSeg b
  | .direct _ => .ds
  | .disp8 b _ => baseSeg b
  | .disp16 b _ => baseSeg b

/-- The segment value of a memory form's access (R96, R102). -/
def State.memSeg (s : State) (m : MemForm) : Word := s.dataSeg (formSeg m)

/-- A resolved operand (R105): a register, or memory at a segment value and an offset. Writes made later do not move
it. -/
inductive Loc (R : Type) where
  | reg (r : R)
  | mem (seg off : Word)
deriving DecidableEq, Repr

/-- Resolving an `rm` operand (R101, R103, R105). -/
def State.loc {R : Type} (s : State) : RM R → Loc R
  | .reg r => .reg r
  | .mem m => .mem (s.memSeg m) (s.ea m)

/-- Reading a resolved operand of width 8 (R104). -/
def State.get8 (s : State) : Loc Reg8 → Byte
  | .reg r => s.reg8 r
  | .mem seg off => s.read8 seg off

/-- Writing a resolved operand of width 8 (R104). -/
def State.put8 (s : State) (l : Loc Reg8) (v : Byte) : State :=
  match l with
  | .reg r => s.setReg8 r v
  | .mem seg off => s.write8 seg off v

/-- Reading a resolved operand of width 16 (R104). -/
def State.get16 (s : State) : Loc Reg16 → Word
  | .reg r => s.reg16 r
  | .mem seg off => s.read16 seg off

/-- Writing a resolved operand of width 16 (R104). -/
def State.put16 (s : State) (l : Loc Reg16) (v : Word) : State :=
  match l with
  | .reg r => s.setReg16 r v
  | .mem seg off => s.write16 seg off v

/-- `ReadRM(8)` (R104). -/
def State.readEb (s : State) (e : Eb) : Byte := s.get8 (s.loc e)

/-- `ReadRM(16)` (R104). -/
def State.readEw (s : State) (e : Ew) : Word := s.get16 (s.loc e)

/-- The offset word of a far pointer in memory (20_memory.md R63, R67). -/
def State.farOff (s : State) (m : MemForm) : Word := s.read16 (s.memSeg m) (s.ea m)

/-- The segment word of a far pointer in memory, at the next word's offset modulo 2^16 (20_memory.md R67). -/
def State.farSel (s : State) (m : MemForm) : Word := s.read16 (s.memSeg m) (s.ea m + 2#16)

/-- `sext_16` of a byte (R106, R107). -/
def sext16 (b : Byte) : Word := b.signExtend 16

/-- `zext_16` of a byte. -/
def zext16 (b : Byte) : Word := b.setWidth 16

/-- A relative transfer (R107): IP plus the displacement, modulo 2^16. -/
def State.jumpBy (s : State) (rel : Word) : State := s.setIp (s.ip + rel)

end Sys2Proof.Machine
end

