-- ==== Sys2Proof/Machine/Arith.lean ====
section
/-! DEFINITION. The arithmetic family (spec/40_arithmetic.md): the two-operand template with ADD, ADC, SUB, SBB and
CMP, and INC, DEC, NEG, MUL, IMUL, DIV, IDIV, CBW, CWD and the decimal adjusts.
Undefined flags (10_state.md R38) are the free values 0 OF, 1 SF, 2 ZF, 3 AF, 4 PF, 5 CF of the execution. -/

namespace Sys2Proof.Machine

/-- The template of R140 at width 8: both operands read, the flags written, the result stored (CMP: not). -/
def State.alu8 (s : State) (op : AluOp) (l : Loc Reg8) (b : Byte) : State :=
  let a := s.get8 l
  let s1 := s.setFlags (op.flags a b s.flags)
  if op.stores then s1.put8 l (op.result a b s.flags) else s1

/-- The template of R140 at width 16. -/
def State.alu16 (s : State) (op : AluOp) (l : Loc Reg16) (b : Word) : State :=
  let a := s.get16 l
  let s1 := s.setFlags (op.flags a b s.flags)
  if op.stores then s1.put16 l (op.result a b s.flags) else s1

/-- ADD Eb, Gb (R141). -/
def execAddEbGb (e : Eb) (g : Reg8) (s : State) : Result := .next (s.alu8 .add (s.loc e) (s.reg8 g))

/-- ADD Ew, Gw (R141). -/
def execAddEwGw (e : Ew) (g : Reg16) (s : State) : Result := .next (s.alu16 .add (s.loc e) (s.reg16 g))

/-- ADD Gb, Eb (R141). -/
def execAddGbEb (g : Reg8) (e : Eb) (s : State) : Result := .next (s.alu8 .add (.reg g) (s.readEb e))

/-- ADD Gw, Ew (R141). -/
def execAddGwEw (g : Reg16) (e : Ew) (s : State) : Result := .next (s.alu16 .add (.reg g) (s.readEw e))

/-- ADD AL, ib (R141). -/
def execAddAlIb (b : Byte) (s : State) : Result := .next (s.alu8 .add (.reg .al) b)

/-- ADD AX, iw (R141). -/
def execAddAxIw (w : Word) (s : State) : Result := .next (s.alu16 .add (.reg .ax) w)

/-- ADD Eb, ib (R141). -/
def execAddEbIb (e : Eb) (b : Byte) (s : State) : Result := .next (s.alu8 .add (s.loc e) b)

/-- ADD Ew, iw (R141). -/
def execAddEwIw (e : Ew) (w : Word) (s : State) : Result := .next (s.alu16 .add (s.loc e) w)

/-- ADD Ew, ib, the byte sign-extended (R141). -/
def execAddEwIb (e : Ew) (b : Byte) (s : State) : Result := .next (s.alu16 .add (s.loc e) (sext16 b))

/-- ADC Eb, Gb (R142). -/
def execAdcEbGb (e : Eb) (g : Reg8) (s : State) : Result := .next (s.alu8 .adc (s.loc e) (s.reg8 g))

/-- ADC Ew, Gw (R142). -/
def execAdcEwGw (e : Ew) (g : Reg16) (s : State) : Result := .next (s.alu16 .adc (s.loc e) (s.reg16 g))

/-- ADC Gb, Eb (R142). -/
def execAdcGbEb (g : Reg8) (e : Eb) (s : State) : Result := .next (s.alu8 .adc (.reg g) (s.readEb e))

/-- ADC Gw, Ew (R142). -/
def execAdcGwEw (g : Reg16) (e : Ew) (s : State) : Result := .next (s.alu16 .adc (.reg g) (s.readEw e))

/-- ADC AL, ib (R142). -/
def execAdcAlIb (b : Byte) (s : State) : Result := .next (s.alu8 .adc (.reg .al) b)

/-- ADC AX, iw (R142). -/
def execAdcAxIw (w : Word) (s : State) : Result := .next (s.alu16 .adc (.reg .ax) w)

/-- ADC Eb, ib (R142). -/
def execAdcEbIb (e : Eb) (b : Byte) (s : State) : Result := .next (s.alu8 .adc (s.loc e) b)

/-- ADC Ew, iw (R142). -/
def execAdcEwIw (e : Ew) (w : Word) (s : State) : Result := .next (s.alu16 .adc (s.loc e) w)

/-- ADC Ew, ib, the byte sign-extended (R142). -/
def execAdcEwIb (e : Ew) (b : Byte) (s : State) : Result := .next (s.alu16 .adc (s.loc e) (sext16 b))

/-- SUB Eb, Gb (R143). -/
def execSubEbGb (e : Eb) (g : Reg8) (s : State) : Result := .next (s.alu8 .sub (s.loc e) (s.reg8 g))

/-- SUB Ew, Gw (R143). -/
def execSubEwGw (e : Ew) (g : Reg16) (s : State) : Result := .next (s.alu16 .sub (s.loc e) (s.reg16 g))

/-- SUB Gb, Eb (R143). -/
def execSubGbEb (g : Reg8) (e : Eb) (s : State) : Result := .next (s.alu8 .sub (.reg g) (s.readEb e))

/-- SUB Gw, Ew (R143). -/
def execSubGwEw (g : Reg16) (e : Ew) (s : State) : Result := .next (s.alu16 .sub (.reg g) (s.readEw e))

/-- SUB AL, ib (R143). -/
def execSubAlIb (b : Byte) (s : State) : Result := .next (s.alu8 .sub (.reg .al) b)

/-- SUB AX, iw (R143). -/
def execSubAxIw (w : Word) (s : State) : Result := .next (s.alu16 .sub (.reg .ax) w)

/-- SUB Eb, ib (R143). -/
def execSubEbIb (e : Eb) (b : Byte) (s : State) : Result := .next (s.alu8 .sub (s.loc e) b)

/-- SUB Ew, iw (R143). -/
def execSubEwIw (e : Ew) (w : Word) (s : State) : Result := .next (s.alu16 .sub (s.loc e) w)

/-- SUB Ew, ib, the byte sign-extended (R143). -/
def execSubEwIb (e : Ew) (b : Byte) (s : State) : Result := .next (s.alu16 .sub (s.loc e) (sext16 b))

/-- SBB Eb, Gb (R144). -/
def execSbbEbGb (e : Eb) (g : Reg8) (s : State) : Result := .next (s.alu8 .sbb (s.loc e) (s.reg8 g))

/-- SBB Ew, Gw (R144). -/
def execSbbEwGw (e : Ew) (g : Reg16) (s : State) : Result := .next (s.alu16 .sbb (s.loc e) (s.reg16 g))

/-- SBB Gb, Eb (R144). -/
def execSbbGbEb (g : Reg8) (e : Eb) (s : State) : Result := .next (s.alu8 .sbb (.reg g) (s.readEb e))

/-- SBB Gw, Ew (R144). -/
def execSbbGwEw (g : Reg16) (e : Ew) (s : State) : Result := .next (s.alu16 .sbb (.reg g) (s.readEw e))

/-- SBB AL, ib (R144). -/
def execSbbAlIb (b : Byte) (s : State) : Result := .next (s.alu8 .sbb (.reg .al) b)

/-- SBB AX, iw (R144). -/
def execSbbAxIw (w : Word) (s : State) : Result := .next (s.alu16 .sbb (.reg .ax) w)

/-- SBB Eb, ib (R144). -/
def execSbbEbIb (e : Eb) (b : Byte) (s : State) : Result := .next (s.alu8 .sbb (s.loc e) b)

/-- SBB Ew, iw (R144). -/
def execSbbEwIw (e : Ew) (w : Word) (s : State) : Result := .next (s.alu16 .sbb (s.loc e) w)

/-- SBB Ew, ib, the byte sign-extended (R144). -/
def execSbbEwIb (e : Ew) (b : Byte) (s : State) : Result := .next (s.alu16 .sbb (s.loc e) (sext16 b))

/-- CMP Eb, Gb (R145). -/
def execCmpEbGb (e : Eb) (g : Reg8) (s : State) : Result := .next (s.alu8 .cmp (s.loc e) (s.reg8 g))

/-- CMP Ew, Gw (R145). -/
def execCmpEwGw (e : Ew) (g : Reg16) (s : State) : Result := .next (s.alu16 .cmp (s.loc e) (s.reg16 g))

/-- CMP Gb, Eb (R145). -/
def execCmpGbEb (g : Reg8) (e : Eb) (s : State) : Result := .next (s.alu8 .cmp (.reg g) (s.readEb e))

/-- CMP Gw, Ew (R145). -/
def execCmpGwEw (g : Reg16) (e : Ew) (s : State) : Result := .next (s.alu16 .cmp (.reg g) (s.readEw e))

/-- CMP AL, ib (R145). -/
def execCmpAlIb (b : Byte) (s : State) : Result := .next (s.alu8 .cmp (.reg .al) b)

/-- CMP AX, iw (R145). -/
def execCmpAxIw (w : Word) (s : State) : Result := .next (s.alu16 .cmp (.reg .ax) w)

/-- CMP Eb, ib (R145). -/
def execCmpEbIb (e : Eb) (b : Byte) (s : State) : Result := .next (s.alu8 .cmp (s.loc e) b)

/-- CMP Ew, iw (R145). -/
def execCmpEwIw (e : Ew) (w : Word) (s : State) : Result := .next (s.alu16 .cmp (s.loc e) w)

/-- CMP Ew, ib, the byte sign-extended (R145). -/
def execCmpEwIb (e : Ew) (b : Byte) (s : State) : Result := .next (s.alu16 .cmp (s.loc e) (sext16 b))

/-! ## One operand -/

/-- INC at width 8 (R148): CF is kept. -/
def State.inc8 (s : State) (l : Loc Reg8) : State :=
  let a := s.get8 l
  (s.setFlags (incFlags a s.flags)).put8 l (addResult a 1#8 false)

/-- INC at width 16 (R148). -/
def State.inc16 (s : State) (l : Loc Reg16) : State :=
  let a := s.get16 l
  (s.setFlags (incFlags a s.flags)).put16 l (addResult a 1#16 false)

/-- DEC at width 8 (R149): CF is kept. -/
def State.dec8 (s : State) (l : Loc Reg8) : State :=
  let a := s.get8 l
  (s.setFlags (decFlags a s.flags)).put8 l (subResult a 1#8 false)

/-- DEC at width 16 (R149). -/
def State.dec16 (s : State) (l : Loc Reg16) : State :=
  let a := s.get16 l
  (s.setFlags (decFlags a s.flags)).put16 l (subResult a 1#16 false)

/-- INC r16 (R148). -/
def execIncR16 (r : Reg16) (s : State) : Result := .next (s.inc16 (.reg r))

/-- INC Eb (R148). -/
def execIncEb (e : Eb) (s : State) : Result := .next (s.inc8 (s.loc e))

/-- INC Ew (R148). -/
def execIncEw (e : Ew) (s : State) : Result := .next (s.inc16 (s.loc e))

/-- DEC r16 (R149). -/
def execDecR16 (r : Reg16) (s : State) : Result := .next (s.dec16 (.reg r))

/-- DEC Eb (R149). -/
def execDecEb (e : Eb) (s : State) : Result := .next (s.dec8 (s.loc e))

/-- DEC Ew (R149). -/
def execDecEw (e : Ew) (s : State) : Result := .next (s.dec16 (s.loc e))

/-- NEG Eb: the operand subtracted from 0 (R150). -/
def execNegEb (e : Eb) (s : State) : Result :=
  let a := s.readEb e
  .next ((s.setFlags (subFlags 0#8 a false s.flags)).put8 (s.loc e) (subResult 0#8 a false))

/-- NEG Ew (R150). -/
def execNegEw (e : Ew) (s : State) : Result :=
  let a := s.readEw e
  .next ((s.setFlags (subFlags 0#16 a false s.flags)).put16 (s.loc e) (subResult 0#16 a false))

/-! ## Multiply (R152, R153) -/

/-- The flags of a multiply: CF and OF together, SF, ZF, AF and PF undefined (R152, R153, 46_ext186.md R386). -/
def State.mulFlags (s : State) (c : Bool) : Flags :=
  { s.flags with CF := c, OF := c, SF := s.freeFlag 1, ZF := s.freeFlag 2, AF := s.freeFlag 3, PF := s.freeFlag 4 }

/-- The flags of a multiply written, the draws used up. -/
def State.mulDone (s : State) (c : Bool) : State := (s.setFlags (s.mulFlags c)).drew 6

/-- The byte product (R152, R153): AX written; `c` says whether its upper half is significant. -/
def State.product8 (s : State) (ax : Word) (c : Bool) : State := (s.setReg16 .ax ax).mulDone c

/-- The word product (R152, R153): AX its low half, DX its high half. -/
def State.product16 (s : State) (p : BitVec 32) (c : Bool) : State :=
  ((s.setReg16 .ax (p.extractLsb' 0 16)).setReg16 .dx (p.extractLsb' 16 16)).mulDone c

/-- MUL Eb: AX is AL times the operand, unsigned (R152). -/
def execMulEb (e : Eb) (s : State) : Result :=
  let ax := BitVec.ofNat 16 ((s.reg8 .al).toNat * (s.readEb e).toNat)
  .next (s.product8 ax (Word.hi ax != 0#8))

/-- MUL Ew: DX:AX is AX times the operand, unsigned (R152). -/
def execMulEw (e : Ew) (s : State) : Result :=
  let p := BitVec.ofNat 32 ((s.reg16 .ax).toNat * (s.readEw e).toNat)
  .next (s.product16 p (p.extractLsb' 16 16 != 0#16))

/-- IMUL Eb: AX is AL times the operand, signed (R153). -/
def execImulEb (e : Eb) (s : State) : Result :=
  let ax := BitVec.ofInt 16 ((s.reg8 .al).toInt * (s.readEb e).toInt)
  .next (s.product8 ax (sext16 (Word.lo ax) != ax))

/-- IMUL Ew: DX:AX is AX times the operand, signed (R153). -/
def execImulEw (e : Ew) (s : State) : Result :=
  let p := BitVec.ofInt 32 ((s.reg16 .ax).toInt * (s.readEw e).toInt)
  .next (s.product16 p ((p.extractLsb' 0 16).signExtend 32 != p))

/-! ## Divide (R154, R155) -/

/-- All six status flags undefined (R154, R155), the draws used up. -/
def State.divDone (s : State) : State :=
  (s.setFlags { s.flags with OF := s.freeFlag 0, SF := s.freeFlag 1, ZF := s.freeFlag 2, AF := s.freeFlag 3,
                             PF := s.freeFlag 4, CF := s.freeFlag 5 }).drew 6

/-- Quotient to AL, remainder to AH (R154, R155). -/
def State.quotient8 (s : State) (q r : Byte) : State := ((s.setReg8 .al q).setReg8 .ah r).divDone

/-- Quotient to AX, remainder to DX (R154, R155). -/
def State.quotient16 (s : State) (q r : Word) : State := ((s.setReg16 .ax q).setReg16 .dx r).divDone

/-- DIV Eb: AX by the operand, unsigned; vector 0 on a zero divisor or a quotient above 0xFF (R154, R426). -/
def execDivEb (e : Eb) (s : State) : Result :=
  let d := (s.readEb e).toNat
  let n := (s.reg16 .ax).toNat
  if d = 0 then .next (s.interrupt 0#8)
  else if 0xFF < n / d then .next (s.interrupt 0#8)
  else .next (s.quotient8 (BitVec.ofNat 8 (n / d)) (BitVec.ofNat 8 (n - n / d * d)))

/-- DIV Ew: DX:AX by the operand, unsigned; vector 0 on a zero divisor or a quotient above 0xFFFF (R154, R426). -/
def execDivEw (e : Ew) (s : State) : Result :=
  let d := (s.readEw e).toNat
  let n := (s.reg16 .dx).toNat * 0x10000 + (s.reg16 .ax).toNat
  if d = 0 then .next (s.interrupt 0#8)
  else if 0xFFFF < n / d then .next (s.interrupt 0#8)
  else .next (s.quotient16 (BitVec.ofNat 16 (n / d)) (BitVec.ofNat 16 (n - n / d * d)))

/-- IDIV Eb: AX by the operand, signed, truncated toward zero; vector 0 on a zero divisor or a quotient outside
-127 to 127 (R155, R426). -/
def execIdivEb (e : Eb) (s : State) : Result :=
  let d := (s.readEb e).toInt
  let n := (s.reg16 .ax).toInt
  let q := n.tdiv d
  if d = 0 then .next (s.interrupt 0#8)
  else if 127 < q ∨ q < -127 then .next (s.interrupt 0#8)
  else .next (s.quotient8 (BitVec.ofInt 8 q) (BitVec.ofInt 8 (n - q * d)))

/-- IDIV Ew: DX:AX by the operand, signed; vector 0 on a zero divisor or a quotient outside -32767 to 32767 (R155,
R426). -/
def execIdivEw (e : Ew) (s : State) : Result :=
  let d := (s.readEw e).toInt
  let n := (s.reg16 .dx ++ s.reg16 .ax).toInt
  let q := n.tdiv d
  if d = 0 then .next (s.interrupt 0#8)
  else if 32767 < q ∨ q < -32767 then .next (s.interrupt 0#8)
  else .next (s.quotient16 (BitVec.ofInt 16 q) (BitVec.ofInt 16 (n - q * d)))

/-! ## Sign extension of the accumulator (R157, R158) -/

/-- CBW: AX is AL sign-extended (R157). -/
def execCbw (s : State) : Result := .next (s.setReg16 .ax (sext16 (s.reg8 .al)))

/-- CWD: DX is the sign of AX (R158). -/
def execCwd (s : State) : Result := .next (s.setReg16 .dx (if (s.reg16 .ax).msb then 0xFFFF#16 else 0#16))

/-! ## Decimal and ASCII adjust (R160 to R165) -/

/-- `AL[3:0] > 9 or AF = 1` (R160 to R163). -/
def State.lowAdjust (s : State) : Bool := decide (9 < (s.reg8 .al).toNat % 16) || s.flags.AF

/-- `old_AL > 0x99 or old_CF = 1` (R160, R161). -/
def State.highAdjust (s : State) : Bool := decide (0x99 < (s.reg8 .al).toNat) || s.flags.CF

/-- DAA (R160). -/
def execDaa (s : State) : Result :=
  let al := s.reg8 .al
  let al1 := if s.lowAdjust then al + 0x06#8 else al
  let al2 := if s.highAdjust then al1 + 0x60#8 else al1
  let f := { s.flags.setSZP al2 with AF := s.lowAdjust, CF := s.highAdjust, OF := s.freeFlag 0 }
  .next (((s.setReg8 .al al2).setFlags f).drew 6)

/-- DAS (R161): CF also on the borrow of the low adjustment. -/
def execDas (s : State) : Result :=
  let al := s.reg8 .al
  let borrow := s.lowAdjust && (s.flags.CF || decide (al.toNat < 0x06))
  let al1 := if s.lowAdjust then al - 0x06#8 else al
  let al2 := if s.highAdjust then al1 - 0x60#8 else al1
  let f := { s.flags.setSZP al2 with AF := s.lowAdjust, CF := s.highAdjust || borrow, OF := s.freeFlag 0 }
  .next (((s.setReg8 .al al2).setFlags f).drew 6)

/-- The flags of AAA and AAS: AF and CF together, OF, SF, ZF and PF undefined (R162, R163). -/
def State.asciiFlags (s : State) (c : Bool) : Flags :=
  { s.flags with AF := c, CF := c, OF := s.freeFlag 0, SF := s.freeFlag 1, ZF := s.freeFlag 2, PF := s.freeFlag 4 }

/-- AAA (R162): AL and AH are adjusted separately. -/
def execAaa (s : State) : Result :=
  let c := s.lowAdjust
  let al := if c then s.reg8 .al + 6#8 else s.reg8 .al
  let ah := if c then s.reg8 .ah + 1#8 else s.reg8 .ah
  .next ((((s.setReg8 .al (al &&& 0x0F#8)).setReg8 .ah ah).setFlags (s.asciiFlags c)).drew 6)

/-- AAS (R163). -/
def execAas (s : State) : Result :=
  let c := s.lowAdjust
  let al := if c then s.reg8 .al - 6#8 else s.reg8 .al
  let ah := if c then s.reg8 .ah - 1#8 else s.reg8 .ah
  .next ((((s.setReg8 .al (al &&& 0x0F#8)).setReg8 .ah ah).setFlags (s.asciiFlags c)).drew 6)

/-- The flags of AAM and AAD: SF, ZF and PF of the new AL, OF, AF and CF undefined (R164, R165). -/
def State.baseFlags (s : State) (al : Byte) : Flags :=
  { s.flags.setSZP al with OF := s.freeFlag 0, AF := s.freeFlag 3, CF := s.freeFlag 5 }

/-- AAM ib (R164): base 0 raises vector 0 with nothing changed. -/
def execAamIb (b : Byte) (s : State) : Result :=
  let t := s.reg8 .al
  if b = 0#8 then .next (s.interrupt 0#8)
  else .next ((((s.setReg8 .ah (t / b)).setReg8 .al (t % b)).setFlags (s.baseFlags (t % b))).drew 6)

/-- AAD ib (R165). -/
def execAadIb (b : Byte) (s : State) : Result :=
  let al := s.reg8 .al + s.reg8 .ah * b
  .next ((((s.setReg8 .al al).setReg8 .ah 0#8).setFlags (s.baseFlags al)).drew 6)

end Sys2Proof.Machine
end

