-- ==== Sys2Proof/Machine/Ext186.lean ====
section
/-! DEFINITION. The 80186 additions (spec/46_ext186.md) but for INS, OUTS (Strings.lean) and the shifts by ib
(Shift.lean). They decode only under `ISA_186` (R380). -/

namespace Sys2Proof.Machine

/-- PUSHA (R381): the SP stored is the one before the first push. -/
def execPusha (s : State) : Result :=
  let t := s.reg16 .sp
  let s1 := (((s.push16 (s.reg16 .ax)).push16 (s.reg16 .cx)).push16 (s.reg16 .dx)).push16 (s.reg16 .bx)
  .next ((((s1.push16 t).push16 (s.reg16 .bp)).push16 (s.reg16 .si)).push16 (s.reg16 .di))

/-- A register popped (R382). -/
def State.popInto (s : State) (r : Reg16) : State := s.drop16.setReg16 r s.top16

/-- POPA (R382): the stored SP is skipped. -/
def execPopa (s : State) : Result :=
  let s1 := (((s.popInto .di).popInto .si).popInto .bp).drop16
  .next ((((s1.popInto .bx).popInto .dx).popInto .cx).popInto .ax)

/-- BOUND Gw, M (R383): vector 5 outside the inclusive signed bounds. -/
def execBoundGwM (g : Reg16) (m : MemForm) (s : State) : Result :=
  let lo := (s.farOff m).toInt
  let hi := (s.farSel m).toInt
  let i := (s.reg16 g).toInt
  if i < lo ∨ hi < i then .next (s.interrupt 5#8) else .next s

/-- PUSH iw (R384). -/
def execPushIw (w : Word) (s : State) : Result := .next (s.push16 w)

/-- PUSH ib, sign-extended (R385). -/
def execPushIb (b : Byte) (s : State) : Result := .next (s.push16 (sext16 b))

/-- The three-operand IMUL (R386): CF and OF when the exact product is outside the signed word. -/
def State.imulInto (s : State) (g : Reg16) (a imm : Word) : State :=
  let p := a.toInt * imm.toInt
  (s.setReg16 g (BitVec.ofInt 16 p)).mulDone (decide (p < -32768 ∨ 32767 < p))

/-- IMUL Gw, Ew, iw (R386). -/
def execImulGwEwIw (g : Reg16) (e : Ew) (w : Word) (s : State) : Result := .next (s.imulInto g (s.readEw e) w)

/-- IMUL Gw, Ew, ib, sign-extended (R386). -/
def execImulGwEwIb (g : Reg16) (e : Ew) (b : Byte) (s : State) : Result := .next (s.imulInto g (s.readEw e) (sext16 b))

/-- The frame pointers copied by ENTER (R390): BP down by two, the word at SS:BP pushed, `n` times. -/
def enterCopy : Nat → State → State
  | 0, s => s
  | n + 1, s =>
    let s1 := s.setReg16 .bp (s.reg16 .bp - 2#16)
    enterCopy n (s1.push16 (s1.read16 (s1.seg .ss) (s1.reg16 .bp)))

/-- ENTER iw, ib (R390): the level is taken modulo 32. -/
def execEnterIwIb (size : Word) (level : Byte) (s : State) : Result :=
  let n := level.toNat % 32
  let s1 := s.push16 (s.reg16 .bp)
  let frame := s1.reg16 .sp
  let s2 := if n = 0 then s1 else (enterCopy (n - 1) s1).push16 frame
  let s3 := s2.setReg16 .bp frame
  .next (s3.setReg16 .sp (s3.reg16 .sp - size))

/-- LEAVE (R391). -/
def execLeave (s : State) : Result := .next ((s.setReg16 .sp (s.reg16 .bp)).popInto .bp)

end Sys2Proof.Machine
end

