-- ==== Sys2Proof/Machine/Logic.lean ====
section
/-! DEFINITION. The logical family (spec/41_logic_shift.md R190 to R194): AND, OR, XOR over the template of R140, TEST
and NOT. -/

namespace Sys2Proof.Machine

/-- AND Eb, Gb (R190). -/
def execAndEbGb (e : Eb) (g : Reg8) (s : State) : Result := .next (s.alu8 .and (s.loc e) (s.reg8 g))

/-- AND Ew, Gw (R190). -/
def execAndEwGw (e : Ew) (g : Reg16) (s : State) : Result := .next (s.alu16 .and (s.loc e) (s.reg16 g))

/-- AND Gb, Eb (R190). -/
def execAndGbEb (g : Reg8) (e : Eb) (s : State) : Result := .next (s.alu8 .and (.reg g) (s.readEb e))

/-- AND Gw, Ew (R190). -/
def execAndGwEw (g : Reg16) (e : Ew) (s : State) : Result := .next (s.alu16 .and (.reg g) (s.readEw e))

/-- AND AL, ib (R190). -/
def execAndAlIb (b : Byte) (s : State) : Result := .next (s.alu8 .and (.reg .al) b)

/-- AND AX, iw (R190). -/
def execAndAxIw (w : Word) (s : State) : Result := .next (s.alu16 .and (.reg .ax) w)

/-- AND Eb, ib (R190). -/
def execAndEbIb (e : Eb) (b : Byte) (s : State) : Result := .next (s.alu8 .and (s.loc e) b)

/-- AND Ew, iw (R190). -/
def execAndEwIw (e : Ew) (w : Word) (s : State) : Result := .next (s.alu16 .and (s.loc e) w)

/-- AND Ew, ib, the byte sign-extended (R190). -/
def execAndEwIb (e : Ew) (b : Byte) (s : State) : Result := .next (s.alu16 .and (s.loc e) (sext16 b))

/-- OR Eb, Gb (R191). -/
def execOrEbGb (e : Eb) (g : Reg8) (s : State) : Result := .next (s.alu8 .or (s.loc e) (s.reg8 g))

/-- OR Ew, Gw (R191). -/
def execOrEwGw (e : Ew) (g : Reg16) (s : State) : Result := .next (s.alu16 .or (s.loc e) (s.reg16 g))

/-- OR Gb, Eb (R191). -/
def execOrGbEb (g : Reg8) (e : Eb) (s : State) : Result := .next (s.alu8 .or (.reg g) (s.readEb e))

/-- OR Gw, Ew (R191). -/
def execOrGwEw (g : Reg16) (e : Ew) (s : State) : Result := .next (s.alu16 .or (.reg g) (s.readEw e))

/-- OR AL, ib (R191). -/
def execOrAlIb (b : Byte) (s : State) : Result := .next (s.alu8 .or (.reg .al) b)

/-- OR AX, iw (R191). -/
def execOrAxIw (w : Word) (s : State) : Result := .next (s.alu16 .or (.reg .ax) w)

/-- OR Eb, ib (R191). -/
def execOrEbIb (e : Eb) (b : Byte) (s : State) : Result := .next (s.alu8 .or (s.loc e) b)

/-- OR Ew, iw (R191). -/
def execOrEwIw (e : Ew) (w : Word) (s : State) : Result := .next (s.alu16 .or (s.loc e) w)

/-- OR Ew, ib, the byte sign-extended (R191). -/
def execOrEwIb (e : Ew) (b : Byte) (s : State) : Result := .next (s.alu16 .or (s.loc e) (sext16 b))

/-- XOR Eb, Gb (R192). -/
def execXorEbGb (e : Eb) (g : Reg8) (s : State) : Result := .next (s.alu8 .xor (s.loc e) (s.reg8 g))

/-- XOR Ew, Gw (R192). -/
def execXorEwGw (e : Ew) (g : Reg16) (s : State) : Result := .next (s.alu16 .xor (s.loc e) (s.reg16 g))

/-- XOR Gb, Eb (R192). -/
def execXorGbEb (g : Reg8) (e : Eb) (s : State) : Result := .next (s.alu8 .xor (.reg g) (s.readEb e))

/-- XOR Gw, Ew (R192). -/
def execXorGwEw (g : Reg16) (e : Ew) (s : State) : Result := .next (s.alu16 .xor (.reg g) (s.readEw e))

/-- XOR AL, ib (R192). -/
def execXorAlIb (b : Byte) (s : State) : Result := .next (s.alu8 .xor (.reg .al) b)

/-- XOR AX, iw (R192). -/
def execXorAxIw (w : Word) (s : State) : Result := .next (s.alu16 .xor (.reg .ax) w)

/-- XOR Eb, ib (R192). -/
def execXorEbIb (e : Eb) (b : Byte) (s : State) : Result := .next (s.alu8 .xor (s.loc e) b)

/-- XOR Ew, iw (R192). -/
def execXorEwIw (e : Ew) (w : Word) (s : State) : Result := .next (s.alu16 .xor (s.loc e) w)

/-- XOR Ew, ib, the byte sign-extended (R192). -/
def execXorEwIb (e : Ew) (b : Byte) (s : State) : Result := .next (s.alu16 .xor (s.loc e) (sext16 b))

/-- TEST at width 8: the flags of AND, nothing stored (R193). -/
def State.test8 (s : State) (a b : Byte) : State := s.setFlags (logicFlags (a &&& b) s.flags)

/-- TEST at width 16 (R193). -/
def State.test16 (s : State) (a b : Word) : State := s.setFlags (logicFlags (a &&& b) s.flags)

/-- TEST Eb, Gb (R193). -/
def execTestEbGb (e : Eb) (g : Reg8) (s : State) : Result := .next (s.test8 (s.readEb e) (s.reg8 g))

/-- TEST Ew, Gw (R193). -/
def execTestEwGw (e : Ew) (g : Reg16) (s : State) : Result := .next (s.test16 (s.readEw e) (s.reg16 g))

/-- TEST AL, ib (R193). -/
def execTestAlIb (b : Byte) (s : State) : Result := .next (s.test8 (s.reg8 .al) b)

/-- TEST AX, iw (R193). -/
def execTestAxIw (w : Word) (s : State) : Result := .next (s.test16 (s.reg16 .ax) w)

/-- TEST Eb, ib (R193). -/
def execTestEbIb (e : Eb) (b : Byte) (s : State) : Result := .next (s.test8 (s.readEb e) b)

/-- TEST Ew, iw (R193). -/
def execTestEwIw (e : Ew) (w : Word) (s : State) : Result := .next (s.test16 (s.readEw e) w)

/-- NOT Eb: no flag changes (R194). -/
def execNotEb (e : Eb) (s : State) : Result := .next (s.put8 (s.loc e) (~~~(s.readEb e)))

/-- NOT Ew (R194). -/
def execNotEw (e : Ew) (s : State) : Result := .next (s.put16 (s.loc e) (~~~(s.readEw e)))

end Sys2Proof.Machine
end

