-- ==== Sys2Proof/Machine/Move.lean ====
section
/-! DEFINITION. The data-movement family (spec/42_data_movement.md): MOV, PUSH, POP, XCHG, XLAT, LEA, LDS, LES, the flag
transfers, IN and OUT. -/

namespace Sys2Proof.Machine

/-! ## MOV (R220 to R225) -/

/-- MOV Eb, Gb (R220). -/
def execMovEbGb (e : Eb) (g : Reg8) (s : State) : Result := .next (s.put8 (s.loc e) (s.reg8 g))

/-- MOV Ew, Gw (R220). -/
def execMovEwGw (e : Ew) (g : Reg16) (s : State) : Result := .next (s.put16 (s.loc e) (s.reg16 g))

/-- MOV Gb, Eb (R220). -/
def execMovGbEb (g : Reg8) (e : Eb) (s : State) : Result := .next (s.setReg8 g (s.readEb e))

/-- MOV Gw, Ew (R220). -/
def execMovGwEw (g : Reg16) (e : Ew) (s : State) : Result := .next (s.setReg16 g (s.readEw e))

/-- MOV Eb, ib (R221). -/
def execMovEbIb (e : Eb) (b : Byte) (s : State) : Result := .next (s.put8 (s.loc e) b)

/-- MOV Ew, iw (R221). -/
def execMovEwIw (e : Ew) (w : Word) (s : State) : Result := .next (s.put16 (s.loc e) w)

/-- MOV r8, ib (R222). -/
def execMovR8Ib (r : Reg8) (b : Byte) (s : State) : Result := .next (s.setReg8 r b)

/-- MOV r16, iw (R222). -/
def execMovR16Iw (r : Reg16) (w : Word) (s : State) : Result := .next (s.setReg16 r w)

/-- MOV AL, [moffs] (R223, R108). -/
def execMovAlMoffs (off : Word) (s : State) : Result := .next (s.setReg8 .al (s.read8 (s.dataSeg .ds) off))

/-- MOV AX, [moffs] (R223). -/
def execMovAxMoffs (off : Word) (s : State) : Result := .next (s.setReg16 .ax (s.read16 (s.dataSeg .ds) off))

/-- MOV [moffs], AL (R223). -/
def execMovMoffsAl (off : Word) (s : State) : Result := .next (s.write8 (s.dataSeg .ds) off (s.reg8 .al))

/-- MOV [moffs], AX (R223). -/
def execMovMoffsAx (off : Word) (s : State) : Result := .next (s.write16 (s.dataSeg .ds) off (s.reg16 .ax))

/-- MOV Ew, Sw (R224). -/
def execMovEwSw (e : Ew) (sr : SReg) (s : State) : Result := .next (s.put16 (s.loc e) (s.seg sr))

/-- MOV ES, Ew (R225). -/
def execMovEsEw (e : Ew) (s : State) : Result := .next (s.setSeg .es (s.readEw e))

/-- MOV SS, Ew (R225). -/
def execMovSsEw (e : Ew) (s : State) : Result := .next (s.setSeg .ss (s.readEw e))

/-- MOV DS, Ew (R225). -/
def execMovDsEw (e : Ew) (s : State) : Result := .next (s.setSeg .ds (s.readEw e))

/-! ## PUSH and POP (R228 to R233) -/

/-- PUSH of a register: `PUSH SP` stores SP after the decrement (R228). -/
def State.pushReg (s : State) (r : Reg16) : State :=
  if r = .sp then s.push16 (s.reg16 .sp - 2#16) else s.push16 (s.reg16 r)

/-- PUSH r16 (R228). -/
def execPushR16 (r : Reg16) (s : State) : Result := .next (s.pushReg r)

/-- PUSH Ew (R229): the register form is opcode 50+r's operation, the memory operand is read before SP changes. -/
def execPushEw (e : Ew) (s : State) : Result :=
  match e with
  | .reg r => .next (s.pushReg r)
  | .mem m => .next (s.push16 (s.readEw (.mem m)))

/-- PUSH ES (R230). -/
def execPushEs (s : State) : Result := .next (s.push16 (s.seg .es))

/-- PUSH CS (R230). -/
def execPushCs (s : State) : Result := .next (s.push16 (s.seg .cs))

/-- PUSH SS (R230). -/
def execPushSs (s : State) : Result := .next (s.push16 (s.seg .ss))

/-- PUSH DS (R230). -/
def execPushDs (s : State) : Result := .next (s.push16 (s.seg .ds))

/-- POP r16 (R231): the increment of SP comes first, so `POP SP` leaves the word popped. -/
def execPopR16 (r : Reg16) (s : State) : Result := .next (s.drop16.setReg16 r s.top16)

/-- POP Ew (R232): the operand was resolved before the pop. -/
def execPopEw (e : Ew) (s : State) : Result := .next (s.drop16.put16 (s.loc e) s.top16)

/-- POP ES (R233). -/
def execPopEs (s : State) : Result := .next (s.drop16.setSeg .es s.top16)

/-- POP SS (R233): the word is read through the old SS. -/
def execPopSs (s : State) : Result := .next (s.drop16.setSeg .ss s.top16)

/-- POP DS (R233). -/
def execPopDs (s : State) : Result := .next (s.drop16.setSeg .ds s.top16)

/-! ## XCHG and XLAT (R236 to R238) -/

/-- XCHG Gb, Eb (R236): both read, then the `rm` operand and the register written. -/
def execXchgEbGb (e : Eb) (g : Reg8) (s : State) : Result :=
  .next ((s.put8 (s.loc e) (s.reg8 g)).setReg8 g (s.readEb e))

/-- XCHG Gw, Ew (R236). -/
def execXchgEwGw (e : Ew) (g : Reg16) (s : State) : Result :=
  .next ((s.put16 (s.loc e) (s.reg16 g)).setReg16 g (s.readEw e))

/-- AX and another register exchanged (R237). -/
def State.xchgAx (s : State) (r : Reg16) : State := (s.setReg16 .ax (s.reg16 r)).setReg16 r (s.reg16 .ax)

/-- XCHG AX, CX (R237). -/
def execXchgAxCx (s : State) : Result := .next (s.xchgAx .cx)

/-- XCHG AX, DX (R237). -/
def execXchgAxDx (s : State) : Result := .next (s.xchgAx .dx)

/-- XCHG AX, BX (R237). -/
def execXchgAxBx (s : State) : Result := .next (s.xchgAx .bx)

/-- XCHG AX, SP (R237). -/
def execXchgAxSp (s : State) : Result := .next (s.xchgAx .sp)

/-- XCHG AX, BP (R237). -/
def execXchgAxBp (s : State) : Result := .next (s.xchgAx .bp)

/-- XCHG AX, SI (R237). -/
def execXchgAxSi (s : State) : Result := .next (s.xchgAx .si)

/-- XCHG AX, DI (R237). -/
def execXchgAxDi (s : State) : Result := .next (s.xchgAx .di)

/-- XLAT (R238): AL is an unsigned index from BX, the sum modulo 2^16. -/
def execXlat (s : State) : Result :=
  .next (s.setReg8 .al (s.read8 (s.dataSeg .ds) (s.reg16 .bx + zext16 (s.reg8 .al))))

/-! ## Address and pointer loads (R240 to R242) -/

/-- LEA Gw, M (R240): the offset alone, no memory access. -/
def execLeaGwM (g : Reg16) (m : MemForm) (s : State) : Result := .next (s.setReg16 g (s.ea m))

/-- LDS Gw, M (R241): both words are read before either register is written. -/
def execLdsGwM (g : Reg16) (m : MemForm) (s : State) : Result :=
  .next ((s.setReg16 g (s.farOff m)).setSeg .ds (s.farSel m))

/-- LES Gw, M (R242). -/
def execLesGwM (g : Reg16) (m : MemForm) (s : State) : Result :=
  .next ((s.setReg16 g (s.farOff m)).setSeg .es (s.farSel m))

/-! ## Flag transfers (R245 to R248) -/

/-- LAHF: AH is the low byte of the FLAGS image (R245). -/
def execLahf (s : State) : Result := .next (s.setReg8 .ah (Word.lo s.flags.image))

/-- SAHF: SF, ZF, AF, PF, CF from AH (R246). -/
def execSahf (s : State) : Result := .next (s.setFlags (s.flags.setLow (s.reg8 .ah)))

/-- PUSHF (R247). -/
def execPushf (s : State) : Result := .next (s.push16 s.flags.image)

/-- POPF: all nine flags (R248). -/
def execPopf (s : State) : Result := .next (s.drop16.setFlags (Flags.ofImage s.top16))

/-! ## IN and OUT (R250, R251) -/

/-- IN to AL: one byte transaction, its value an input of the step (R250). -/
def State.inAl (s : State) (port : Word) : State := (s.ioRead8 port).setReg8 .al (s.ioValue8 port)

/-- IN to AX: one word transaction (R250). -/
def State.inAx (s : State) (port : Word) : State := (s.ioRead16 port).setReg16 .ax (s.ioValue16 port)

/-- IN AL, ib (R250). -/
def execInAlIb (b : Byte) (s : State) : Result := .next (s.inAl (zext16 b))

/-- IN AX, ib (R250). -/
def execInAxIb (b : Byte) (s : State) : Result := .next (s.inAx (zext16 b))

/-- IN AL, DX (R250). -/
def execInAlDx (s : State) : Result := .next (s.inAl (s.reg16 .dx))

/-- IN AX, DX (R250). -/
def execInAxDx (s : State) : Result := .next (s.inAx (s.reg16 .dx))

/-- OUT ib, AL (R251). -/
def execOutIbAl (b : Byte) (s : State) : Result := .next (s.ioWrite8 (zext16 b) (s.reg8 .al))

/-- OUT ib, AX (R251). -/
def execOutIbAx (b : Byte) (s : State) : Result := .next (s.ioWrite16 (zext16 b) (s.reg16 .ax))

/-- OUT DX, AL (R251). -/
def execOutDxAl (s : State) : Result := .next (s.ioWrite8 (s.reg16 .dx) (s.reg8 .al))

/-- OUT DX, AX (R251). -/
def execOutDxAx (s : State) : Result := .next (s.ioWrite16 (s.reg16 .dx) (s.reg16 .ax))

end Sys2Proof.Machine
end

