-- ==== Sys2Proof/Machine/Shift.lean ====
section
/-! DEFINITION. The shifts and rotates (spec/41_logic_shift.md R198 to R206, 46_ext186.md R389, R392), each the
repetition of a one-bit step. -/

namespace Sys2Proof.Machine

/-- The seven operations (R198). -/
inductive ShiftOp where
  | rol | ror | rcl | rcr | shl | shr | sar
deriving DecidableEq, Repr

/-- The one-bit step of an operation on the operand and CF (R200 to R206). -/
def ShiftOp.step {w : Nat} (op : ShiftOp) (v : BitVec w) (c : Bool) : BitVec w × Bool :=
  match op with
  | .rol => ((v <<< 1) ||| (BitVec.ofBool v.msb).setWidth w, v.msb)
  | .ror => ((v >>> 1) ||| ((BitVec.ofBool (v.getLsbD 0)).setWidth w <<< (w - 1)), v.getLsbD 0)
  | .rcl => ((v <<< 1) ||| (BitVec.ofBool c).setWidth w, v.msb)
  | .rcr => ((v >>> 1) ||| ((BitVec.ofBool c).setWidth w <<< (w - 1)), v.getLsbD 0)
  | .shl => (v <<< 1, v.msb)
  | .shr => (v >>> 1, v.getLsbD 0)
  | .sar => ((v >>> 1) ||| (v &&& BitVec.twoPow w (w - 1)), v.getLsbD 0)

/-- The step repeated (R198). -/
def ShiftOp.run {w : Nat} (op : ShiftOp) : Nat → BitVec w → Bool → BitVec w × Bool
  | 0, v, c => (v, c)
  | n + 1, v, c => ShiftOp.run op n (op.step v c).1 (op.step v c).2

/-- OF for count 1, from the operand before, the result and the new CF (R200 to R206). -/
def ShiftOp.overflow {w : Nat} (op : ShiftOp) (orig v : BitVec w) (c : Bool) : Bool :=
  match op with
  | .rol => v.msb ^^ c
  | .ror => v.msb ^^ v.getLsbD (w - 2)
  | .rcl => v.msb ^^ c
  | .rcr => v.msb ^^ v.getLsbD (w - 2)
  | .shl => v.msb ^^ c
  | .shr => orig.msb
  | .sar => false

/-- Does the operation write SF, ZF and PF (and leave AF undefined)? The shifts do, the rotates do not. -/
def ShiftOp.isShift : ShiftOp → Bool
  | .rol => false
  | .ror => false
  | .rcl => false
  | .rcr => false
  | .shl => true
  | .shr => true
  | .sar => true

/-- The flags after a count of 1 or more: CF the last bit out; OF defined for count 1 only, else the free value 0; for a
shift SF, ZF, PF of the result and AF the free value 3 (R200 to R206). -/
def State.shiftFlags {w : Nat} (s : State) (op : ShiftOp) (count : Nat) (orig v : BitVec w) (c : Bool) : Flags :=
  let ovf := if count = 1 then op.overflow orig v c else s.freeFlag 0
  if op.isShift then { s.flags.setSZP v with CF := c, OF := ovf, AF := s.freeFlag 3 }
  else { s.flags with CF := c, OF := ovf }

/-- The count used: the whole byte on the 8086, its low five bits under `ISA_186` (R198, R392). -/
def State.shiftCount (s : State) (n : Byte) : Nat := if s.isa186 then n.toNat % 32 else n.toNat

/-- A shift or rotate at width 8; with count 0 the operand is written back and no flag changes (R199). -/
def State.shift8 (s : State) (op : ShiftOp) (l : Loc Reg8) (n : Byte) : State :=
  let count := s.shiftCount n
  let orig := s.get8 l
  let r := op.run count orig s.flags.CF
  if count = 0 then s.put8 l orig
  else ((s.put8 l r.1).setFlags (s.shiftFlags op count orig r.1 r.2)).drew 6

/-- A shift or rotate at width 16. -/
def State.shift16 (s : State) (op : ShiftOp) (l : Loc Reg16) (n : Byte) : State :=
  let count := s.shiftCount n
  let orig := s.get16 l
  let r := op.run count orig s.flags.CF
  if count = 0 then s.put16 l orig
  else ((s.put16 l r.1).setFlags (s.shiftFlags op count orig r.1 r.2)).drew 6

/-- ROL Eb, 1 (R203). -/
def execRolEb1 (e : Eb) (s : State) : Result := .next (s.shift8 .rol (s.loc e) 1#8)

/-- ROL Ew, 1 (R203). -/
def execRolEw1 (e : Ew) (s : State) : Result := .next (s.shift16 .rol (s.loc e) 1#8)

/-- ROL Eb, CL (R203). -/
def execRolEbCl (e : Eb) (s : State) : Result := .next (s.shift8 .rol (s.loc e) (s.reg8 .cl))

/-- ROL Ew, CL (R203). -/
def execRolEwCl (e : Ew) (s : State) : Result := .next (s.shift16 .rol (s.loc e) (s.reg8 .cl))

/-- ROL Eb, ib (R203, R389). -/
def execRolEbIb (e : Eb) (b : Byte) (s : State) : Result := .next (s.shift8 .rol (s.loc e) b)

/-- ROL Ew, ib (R203, R389). -/
def execRolEwIb (e : Ew) (b : Byte) (s : State) : Result := .next (s.shift16 .rol (s.loc e) b)

/-- ROR Eb, 1 (R204). -/
def execRorEb1 (e : Eb) (s : State) : Result := .next (s.shift8 .ror (s.loc e) 1#8)

/-- ROR Ew, 1 (R204). -/
def execRorEw1 (e : Ew) (s : State) : Result := .next (s.shift16 .ror (s.loc e) 1#8)

/-- ROR Eb, CL (R204). -/
def execRorEbCl (e : Eb) (s : State) : Result := .next (s.shift8 .ror (s.loc e) (s.reg8 .cl))

/-- ROR Ew, CL (R204). -/
def execRorEwCl (e : Ew) (s : State) : Result := .next (s.shift16 .ror (s.loc e) (s.reg8 .cl))

/-- ROR Eb, ib (R204, R389). -/
def execRorEbIb (e : Eb) (b : Byte) (s : State) : Result := .next (s.shift8 .ror (s.loc e) b)

/-- ROR Ew, ib (R204, R389). -/
def execRorEwIb (e : Ew) (b : Byte) (s : State) : Result := .next (s.shift16 .ror (s.loc e) b)

/-- RCL Eb, 1 (R205). -/
def execRclEb1 (e : Eb) (s : State) : Result := .next (s.shift8 .rcl (s.loc e) 1#8)

/-- RCL Ew, 1 (R205). -/
def execRclEw1 (e : Ew) (s : State) : Result := .next (s.shift16 .rcl (s.loc e) 1#8)

/-- RCL Eb, CL (R205). -/
def execRclEbCl (e : Eb) (s : State) : Result := .next (s.shift8 .rcl (s.loc e) (s.reg8 .cl))

/-- RCL Ew, CL (R205). -/
def execRclEwCl (e : Ew) (s : State) : Result := .next (s.shift16 .rcl (s.loc e) (s.reg8 .cl))

/-- RCL Eb, ib (R205, R389). -/
def execRclEbIb (e : Eb) (b : Byte) (s : State) : Result := .next (s.shift8 .rcl (s.loc e) b)

/-- RCL Ew, ib (R205, R389). -/
def execRclEwIb (e : Ew) (b : Byte) (s : State) : Result := .next (s.shift16 .rcl (s.loc e) b)

/-- RCR Eb, 1 (R206). -/
def execRcrEb1 (e : Eb) (s : State) : Result := .next (s.shift8 .rcr (s.loc e) 1#8)

/-- RCR Ew, 1 (R206). -/
def execRcrEw1 (e : Ew) (s : State) : Result := .next (s.shift16 .rcr (s.loc e) 1#8)

/-- RCR Eb, CL (R206). -/
def execRcrEbCl (e : Eb) (s : State) : Result := .next (s.shift8 .rcr (s.loc e) (s.reg8 .cl))

/-- RCR Ew, CL (R206). -/
def execRcrEwCl (e : Ew) (s : State) : Result := .next (s.shift16 .rcr (s.loc e) (s.reg8 .cl))

/-- RCR Eb, ib (R206, R389). -/
def execRcrEbIb (e : Eb) (b : Byte) (s : State) : Result := .next (s.shift8 .rcr (s.loc e) b)

/-- RCR Ew, ib (R206, R389). -/
def execRcrEwIb (e : Ew) (b : Byte) (s : State) : Result := .next (s.shift16 .rcr (s.loc e) b)

/-- SHL Eb, 1 (R200). -/
def execShlEb1 (e : Eb) (s : State) : Result := .next (s.shift8 .shl (s.loc e) 1#8)

/-- SHL Ew, 1 (R200). -/
def execShlEw1 (e : Ew) (s : State) : Result := .next (s.shift16 .shl (s.loc e) 1#8)

/-- SHL Eb, CL (R200). -/
def execShlEbCl (e : Eb) (s : State) : Result := .next (s.shift8 .shl (s.loc e) (s.reg8 .cl))

/-- SHL Ew, CL (R200). -/
def execShlEwCl (e : Ew) (s : State) : Result := .next (s.shift16 .shl (s.loc e) (s.reg8 .cl))

/-- SHL Eb, ib (R200, R389). -/
def execShlEbIb (e : Eb) (b : Byte) (s : State) : Result := .next (s.shift8 .shl (s.loc e) b)

/-- SHL Ew, ib (R200, R389). -/
def execShlEwIb (e : Ew) (b : Byte) (s : State) : Result := .next (s.shift16 .shl (s.loc e) b)

/-- SHR Eb, 1 (R201). -/
def execShrEb1 (e : Eb) (s : State) : Result := .next (s.shift8 .shr (s.loc e) 1#8)

/-- SHR Ew, 1 (R201). -/
def execShrEw1 (e : Ew) (s : State) : Result := .next (s.shift16 .shr (s.loc e) 1#8)

/-- SHR Eb, CL (R201). -/
def execShrEbCl (e : Eb) (s : State) : Result := .next (s.shift8 .shr (s.loc e) (s.reg8 .cl))

/-- SHR Ew, CL (R201). -/
def execShrEwCl (e : Ew) (s : State) : Result := .next (s.shift16 .shr (s.loc e) (s.reg8 .cl))

/-- SHR Eb, ib (R201, R389). -/
def execShrEbIb (e : Eb) (b : Byte) (s : State) : Result := .next (s.shift8 .shr (s.loc e) b)

/-- SHR Ew, ib (R201, R389). -/
def execShrEwIb (e : Ew) (b : Byte) (s : State) : Result := .next (s.shift16 .shr (s.loc e) b)

/-- SAR Eb, 1 (R202). -/
def execSarEb1 (e : Eb) (s : State) : Result := .next (s.shift8 .sar (s.loc e) 1#8)

/-- SAR Ew, 1 (R202). -/
def execSarEw1 (e : Ew) (s : State) : Result := .next (s.shift16 .sar (s.loc e) 1#8)

/-- SAR Eb, CL (R202). -/
def execSarEbCl (e : Eb) (s : State) : Result := .next (s.shift8 .sar (s.loc e) (s.reg8 .cl))

/-- SAR Ew, CL (R202). -/
def execSarEwCl (e : Ew) (s : State) : Result := .next (s.shift16 .sar (s.loc e) (s.reg8 .cl))

/-- SAR Eb, ib (R202, R389). -/
def execSarEbIb (e : Eb) (b : Byte) (s : State) : Result := .next (s.shift8 .sar (s.loc e) b)

/-- SAR Ew, ib (R202, R389). -/
def execSarEwIb (e : Ew) (b : Byte) (s : State) : Result := .next (s.shift16 .sar (s.loc e) b)

end Sys2Proof.Machine
end

