-- ==== Sys2Proof/Machine/Strings.lean ====
section
/-! DEFINITION. The string instructions and the repeat prefixes (spec/44_string.md), with INS and OUTS of the 80186
(46_ext186.md R387, R388). A repeated instruction is one step (R333). -/

namespace Sys2Proof.Machine

/-- The index register moved by one element of `n` bytes in the direction of DF (R320). -/
def State.stepIndex (s : State) (r : Reg16) (n : Word) : State :=
  s.setReg16 r (if s.flags.DF then s.reg16 r - n else s.reg16 r + n)

/-- The byte source element: DS or the override, at SI (R320). -/
def State.src8 (s : State) : Byte := s.read8 (s.dataSeg .ds) (s.reg16 .si)

/-- The word source element. -/
def State.src16 (s : State) : Word := s.read16 (s.dataSeg .ds) (s.reg16 .si)

/-- The byte destination element: ES at DI, never overridden (R320). -/
def State.dst8 (s : State) : Byte := s.read8 (s.seg .es) (s.reg16 .di)

/-- The word destination element. -/
def State.dst16 (s : State) : Word := s.read16 (s.seg .es) (s.reg16 .di)

/-- The byte destination element written. -/
def State.putDst8 (s : State) (v : Byte) : State := s.write8 (s.seg .es) (s.reg16 .di) v

/-- The word destination element written. -/
def State.putDst16 (s : State) (v : Word) : State := s.write16 (s.seg .es) (s.reg16 .di) v

/-! ## The single elements (R321 to R325, R387, R388) -/

/-- MOVSB once (R321). -/
def movsElem8 (s : State) : State := ((s.putDst8 s.src8).stepIndex .si 1#16).stepIndex .di 1#16

/-- MOVSW once (R321): the element is read in full before it is written. -/
def movsElem16 (s : State) : State := ((s.putDst16 s.src16).stepIndex .si 2#16).stepIndex .di 2#16

/-- LODSB once (R322). -/
def lodsElem8 (s : State) : State := (s.setReg8 .al s.src8).stepIndex .si 1#16

/-- LODSW once (R322). -/
def lodsElem16 (s : State) : State := (s.setReg16 .ax s.src16).stepIndex .si 2#16

/-- CMPSB once (R323): source minus destination. -/
def cmpsElem8 (s : State) : State :=
  ((s.setFlags (subFlags s.src8 s.dst8 false s.flags)).stepIndex .si 1#16).stepIndex .di 1#16

/-- CMPSW once (R323). -/
def cmpsElem16 (s : State) : State :=
  ((s.setFlags (subFlags s.src16 s.dst16 false s.flags)).stepIndex .si 2#16).stepIndex .di 2#16

/-- SCASB once (R324): AL minus destination. -/
def scasElem8 (s : State) : State := (s.setFlags (subFlags (s.reg8 .al) s.dst8 false s.flags)).stepIndex .di 1#16

/-- SCASW once (R324). -/
def scasElem16 (s : State) : State := (s.setFlags (subFlags (s.reg16 .ax) s.dst16 false s.flags)).stepIndex .di 2#16

/-- STOSB once (R325). -/
def stosElem8 (s : State) : State := (s.putDst8 (s.reg8 .al)).stepIndex .di 1#16

/-- STOSW once (R325). -/
def stosElem16 (s : State) : State := (s.putDst16 (s.reg16 .ax)).stepIndex .di 2#16

/-- INSB once (R387). -/
def insElem8 (s : State) : State := ((s.ioRead8 (s.reg16 .dx)).putDst8 (s.ioValue8 (s.reg16 .dx))).stepIndex .di 1#16

/-- INSW once (R387). -/
def insElem16 (s : State) : State := ((s.ioRead16 (s.reg16 .dx)).putDst16 (s.ioValue16 (s.reg16 .dx))).stepIndex .di 2#16

/-- OUTSB once (R388). -/
def outsElem8 (s : State) : State := (s.ioWrite8 (s.reg16 .dx) s.src8).stepIndex .si 1#16

/-- OUTSW once (R388). -/
def outsElem16 (s : State) : State := (s.ioWrite16 (s.reg16 .dx) s.src16).stepIndex .si 2#16

/-! ## Repetition (R330 to R332) -/

/-- After an element of CMPS or SCAS: REP ends at ZF = 0, REPNE at ZF = 1 (R330, R331). -/
def exitOnZF (r : Rep) (s : State) : Bool :=
  match r with
  | .rep => !s.flags.ZF
  | .repne => s.flags.ZF

/-- The loop never ends early (MOVS, LODS, STOS, INS, OUTS; R331, R387). -/
def neverExit (_ : Rep) (_ : State) : Bool := false

/-- The loop of R330: CX is tested before each element, decremented after it, and then the exit test is made.
`fuel` is the greatest number of elements; CX at entry is enough, since no element writes CX. -/
def repLoop (elem : State → State) (exit : State → Bool) : Nat → State → State
  | 0, s => s
  | fuel + 1, s =>
    if s.reg16 .cx = 0#16 then s
    else
      let s1 := elem s
      let s2 := s1.setReg16 .cx (s1.reg16 .cx - 1#16)
      if exit s2 then s2 else repLoop elem exit fuel s2

/-- A string instruction: one element, or the loop if there is a repeat (R320, R330). -/
def State.stringOp (s : State) (elem : State → State) (exit : Rep → State → Bool) : State :=
  match s.pfx.rep with
  | none => elem s
  | some r => repLoop elem (exit r) (s.reg16 .cx).toNat s

/-- MOVSB (R321, R330). -/
def execMovsb (s : State) : Result := .next (s.stringOp movsElem8 neverExit)

/-- MOVSW (R321, R330). -/
def execMovsw (s : State) : Result := .next (s.stringOp movsElem16 neverExit)

/-- LODSB (R322, R330). -/
def execLodsb (s : State) : Result := .next (s.stringOp lodsElem8 neverExit)

/-- LODSW (R322, R330). -/
def execLodsw (s : State) : Result := .next (s.stringOp lodsElem16 neverExit)

/-- CMPSB (R323, R330). -/
def execCmpsb (s : State) : Result := .next (s.stringOp cmpsElem8 exitOnZF)

/-- CMPSW (R323, R330). -/
def execCmpsw (s : State) : Result := .next (s.stringOp cmpsElem16 exitOnZF)

/-- SCASB (R324, R330). -/
def execScasb (s : State) : Result := .next (s.stringOp scasElem8 exitOnZF)

/-- SCASW (R324, R330). -/
def execScasw (s : State) : Result := .next (s.stringOp scasElem16 exitOnZF)

/-- STOSB (R325, R330). -/
def execStosb (s : State) : Result := .next (s.stringOp stosElem8 neverExit)

/-- STOSW (R325, R330). -/
def execStosw (s : State) : Result := .next (s.stringOp stosElem16 neverExit)

/-- INSB (R387, R330). -/
def execInsb (s : State) : Result := .next (s.stringOp insElem8 neverExit)

/-- INSW (R387, R330). -/
def execInsw (s : State) : Result := .next (s.stringOp insElem16 neverExit)

/-- OUTSB (R388, R330). -/
def execOutsb (s : State) : Result := .next (s.stringOp outsElem8 neverExit)

/-- OUTSW (R388, R330). -/
def execOutsw (s : State) : Result := .next (s.stringOp outsElem16 neverExit)

end Sys2Proof.Machine
end

