-- ==== Sys2Proof/Machine/System.lean ====
section
/-! DEFINITION. The system family (spec/45_system.md): the single-flag instructions, NOP, HLT, WAIT, ESC, the bytes of
R94 as instructions of their own row, and `Invalid`. -/

namespace Sys2Proof.Machine

/-- CLC (R350). -/
def execClc (s : State) : Result := .next (s.setFlags { s.flags with CF := false })

/-- STC (R351). -/
def execStc (s : State) : Result := .next (s.setFlags { s.flags with CF := true })

/-- CMC (R352). -/
def execCmc (s : State) : Result := .next (s.setFlags { s.flags with CF := !s.flags.CF })

/-- CLD (R353). -/
def execCld (s : State) : Result := .next (s.setFlags { s.flags with DF := false })

/-- STD (R354). -/
def execStd (s : State) : Result := .next (s.setFlags { s.flags with DF := true })

/-- CLI (R355). -/
def execCli (s : State) : Result := .next (s.setFlags { s.flags with IF := false })

/-- STI (R356). -/
def execSti (s : State) : Result := .next (s.setFlags { s.flags with IF := true })

/-- NOP: nothing but the advanced IP (R357). -/
def execNop (s : State) : Result := .next s

/-- HLT (R358). -/
def execHlt (s : State) : Result := .next s.halt

/-- WAIT: the block has no TEST pin and never blocks (R359). -/
def execWait (s : State) : Result := .next s

/-- ESC: the operand is decoded for its length, and neither read nor written (R360). -/
def execEsc (_op _reg : BitVec 3) (_e : Ew) (s : State) : Result := .next s

/-! ## The bytes of R94: recorded for the instruction they precede (R95) -/

/-- `segovr <- r`: the last one wins (R95, R96, R362). -/
def State.override (s : State) (r : SReg) : State := s.setPfx { s.pfx with seg := some r }

/-- `rep <- r`: the last one wins (R95, 44_string.md R330). -/
def State.repeating (s : State) (r : Rep) : State := s.setPfx { s.pfx with rep := some r }

/-- ES: (R94). -/
def execSegEs (s : State) : Result := .next (s.override .es)

/-- CS: (R94). -/
def execSegCs (s : State) : Result := .next (s.override .cs)

/-- SS: (R94). -/
def execSegSs (s : State) : Result := .next (s.override .ss)

/-- DS: (R94). -/
def execSegDs (s : State) : Result := .next (s.override .ds)

/-- LOCK: recorded, read by nothing (R361). -/
def execLock (s : State) : Result := .next (s.setPfx { s.pfx with lock := true })

/-- REPNE / REPNZ (R94). -/
def execRepne (s : State) : Result := .next (s.repeating .repne)

/-- REP / REPE / REPZ (R94). -/
def execRep (s : State) : Result := .next (s.repeating .rep)

/-- Invalid: vector 6, the saved IP after the bytes consumed (R365, 60_exceptions.md R427). -/
def execInvalid (_raw : List Byte) (s : State) : Result := .next (s.interrupt 6#8)

end Sys2Proof.Machine
end

