-- ==== Sys2Proof/Machine/Transfer.lean ====
section
/-! DEFINITION. The control transfer family (spec/43_control_transfer.md): jumps, calls, returns, conditional jumps,
loops, software interrupts and IRET. IP is the advanced value throughout (00_scope.md R4). -/

namespace Sys2Proof.Machine

/-! ## Jumps (R270 to R274) -/

/-- A far transfer: CS and IP written. -/
def State.jumpFar (s : State) (sel off : Word) : State := (s.setSeg .cs sel).setIp off

/-- JMP cb (R270). -/
def execJmpCb (d : Byte) (s : State) : Result := .next (s.jumpBy (sext16 d))

/-- JMP cw (R271). -/
def execJmpCw (d : Word) (s : State) : Result := .next (s.jumpBy d)

/-- JMP Ew, near indirect (R272). -/
def execJmpEw (e : Ew) (s : State) : Result := .next (s.setIp (s.readEw e))

/-- JMP ptr, far direct (R273). -/
def execJmpFar (off sel : Word) (s : State) : Result := .next (s.jumpFar sel off)

/-- JMP M, far indirect (R274). -/
def execJmpM (m : MemForm) (s : State) : Result := .next (s.jumpFar (s.farSel m) (s.farOff m))

/-! ## Calls (R276 to R279) -/

/-- CS pushed, then IP (R278). -/
def State.pushCsIp (s : State) : State :=
  let s1 := s.push16 (s.seg .cs)
  s1.push16 s1.ip

/-- CALL cw (R276). -/
def execCallCw (d : Word) (s : State) : Result := .next ((s.push16 s.ip).jumpBy d)

/-- CALL Ew, near indirect (R277): the target is read before the push. -/
def execCallEw (e : Ew) (s : State) : Result := .next ((s.push16 s.ip).setIp (s.readEw e))

/-- CALL ptr, far direct (R278). -/
def execCallFar (off sel : Word) (s : State) : Result := .next (s.pushCsIp.jumpFar sel off)

/-- CALL M, far indirect (R279): both pointer words are read before either push. -/
def execCallM (m : MemForm) (s : State) : Result := .next (s.pushCsIp.jumpFar (s.farSel m) (s.farOff m))

/-! ## Returns (R281 to R284) -/

/-- The near return: IP popped. -/
def State.retNear (s : State) : State := s.drop16.setIp s.top16

/-- The far return: IP popped, then CS. -/
def State.retFar (s : State) : State :=
  let s1 := s.retNear
  s1.drop16.setSeg .cs s1.top16

/-- The release of `n` bytes of arguments (R282, R284). -/
def State.release (s : State) (n : Word) : State := s.setReg16 .sp (s.reg16 .sp + n)

/-- RET (R281). -/
def execRet (s : State) : Result := .next s.retNear

/-- RET iw (R282). -/
def execRetIw (w : Word) (s : State) : Result := .next (s.retNear.release w)

/-- RETF (R283). -/
def execRetf (s : State) : Result := .next s.retFar

/-- RETF iw (R284). -/
def execRetfIw (w : Word) (s : State) : Result := .next (s.retFar.release w)

/-! ## Conditional jumps (R286) -/

/-- Jump on a condition; otherwise nothing (R286). -/
def State.jumpIf (s : State) (c : Bool) (d : Byte) : State := if c then s.jumpBy (sext16 d) else s

/-- JO cb (R286). -/
def execJo (d : Byte) (s : State) : Result := .next (s.jumpIf (Cond.holds .o s.flags) d)

/-- JNO cb (R286). -/
def execJno (d : Byte) (s : State) : Result := .next (s.jumpIf (Cond.holds .no s.flags) d)

/-- JB cb (R286). -/
def execJb (d : Byte) (s : State) : Result := .next (s.jumpIf (Cond.holds .b s.flags) d)

/-- JNB cb (R286). -/
def execJnb (d : Byte) (s : State) : Result := .next (s.jumpIf (Cond.holds .nb s.flags) d)

/-- JE cb (R286). -/
def execJe (d : Byte) (s : State) : Result := .next (s.jumpIf (Cond.holds .e s.flags) d)

/-- JNE cb (R286). -/
def execJne (d : Byte) (s : State) : Result := .next (s.jumpIf (Cond.holds .ne s.flags) d)

/-- JBE cb (R286). -/
def execJbe (d : Byte) (s : State) : Result := .next (s.jumpIf (Cond.holds .be s.flags) d)

/-- JA cb (R286). -/
def execJa (d : Byte) (s : State) : Result := .next (s.jumpIf (Cond.holds .a s.flags) d)

/-- JS cb (R286). -/
def execJs (d : Byte) (s : State) : Result := .next (s.jumpIf (Cond.holds .s s.flags) d)

/-- JNS cb (R286). -/
def execJns (d : Byte) (s : State) : Result := .next (s.jumpIf (Cond.holds .ns s.flags) d)

/-- JP cb (R286). -/
def execJp (d : Byte) (s : State) : Result := .next (s.jumpIf (Cond.holds .p s.flags) d)

/-- JNP cb (R286). -/
def execJnp (d : Byte) (s : State) : Result := .next (s.jumpIf (Cond.holds .np s.flags) d)

/-- JL cb (R286). -/
def execJl (d : Byte) (s : State) : Result := .next (s.jumpIf (Cond.holds .l s.flags) d)

/-- JGE cb (R286). -/
def execJge (d : Byte) (s : State) : Result := .next (s.jumpIf (Cond.holds .ge s.flags) d)

/-- JLE cb (R286). -/
def execJle (d : Byte) (s : State) : Result := .next (s.jumpIf (Cond.holds .le s.flags) d)

/-- JG cb (R286). -/
def execJg (d : Byte) (s : State) : Result := .next (s.jumpIf (Cond.holds .g s.flags) d)

/-! ## Loops (R288 to R291) -/

/-- `CX <- CX - 1` modulo 2^16, no flag written (R288). -/
def State.decCx (s : State) : State := s.setReg16 .cx (s.reg16 .cx - 1#16)

/-- LOOP cb (R288). -/
def execLoop (d : Byte) (s : State) : Result := .next (s.decCx.jumpIf (s.decCx.reg16 .cx != 0#16) d)

/-- LOOPE cb (R289). -/
def execLoope (d : Byte) (s : State) : Result := .next (s.decCx.jumpIf (s.decCx.reg16 .cx != 0#16 && s.flags.ZF) d)

/-- LOOPNE cb (R290). -/
def execLoopne (d : Byte) (s : State) : Result := .next (s.decCx.jumpIf (s.decCx.reg16 .cx != 0#16 && !s.flags.ZF) d)

/-- JCXZ cb (R291). -/
def execJcxz (d : Byte) (s : State) : Result := .next (s.jumpIf (s.reg16 .cx == 0#16) d)

/-! ## Software interrupts and return (R295 to R300) -/

/-- INT ib (R295). -/
def execIntIb (b : Byte) (s : State) : Result := .next (s.interrupt b)

/-- INT3 (R296). -/
def execInt3 (s : State) : Result := .next (s.interrupt 3#8)

/-- INTO: vector 4 if OF, otherwise nothing (R297). -/
def execInto (s : State) : Result := .next (if s.flags.OF then s.interrupt 4#8 else s)

/-- IRET (R300). -/
def execIret (s : State) : Result := .next s.iret

end Sys2Proof.Machine
end

