-- ==== Sys2Proof/Machine/Dispatch.lean ====
section
/-! DEFINITION. One arm per constructor of `Instr`, each a direct call of its meaning. -/

namespace Sys2Proof.Machine

/-- What an instruction does in a state whose IP is already advanced (spec/00_scope.md R4 (d)). -/
def exec (i : Instr) (s : State) : Host.Outcome State Fault Refusal :=
  match i with
  | .addEbGb e g => Sys2Proof.Machine.execAddEbGb e g s
  | .addEwGw e g => Sys2Proof.Machine.execAddEwGw e g s
  | .addGbEb g e => Sys2Proof.Machine.execAddGbEb g e s
  | .addGwEw g e => Sys2Proof.Machine.execAddGwEw g e s
  | .addAlIb b => Sys2Proof.Machine.execAddAlIb b s
  | .addAxIw w => Sys2Proof.Machine.execAddAxIw w s
  | .addEbIb e b => Sys2Proof.Machine.execAddEbIb e b s
  | .addEwIw e w => Sys2Proof.Machine.execAddEwIw e w s
  | .addEwIb e b => Sys2Proof.Machine.execAddEwIb e b s
  | .orEbGb e g => Sys2Proof.Machine.execOrEbGb e g s
  | .orEwGw e g => Sys2Proof.Machine.execOrEwGw e g s
  | .orGbEb g e => Sys2Proof.Machine.execOrGbEb g e s
  | .orGwEw g e => Sys2Proof.Machine.execOrGwEw g e s
  | .orAlIb b => Sys2Proof.Machine.execOrAlIb b s
  | .orAxIw w => Sys2Proof.Machine.execOrAxIw w s
  | .orEbIb e b => Sys2Proof.Machine.execOrEbIb e b s
  | .orEwIw e w => Sys2Proof.Machine.execOrEwIw e w s
  | .orEwIb e b => Sys2Proof.Machine.execOrEwIb e b s
  | .adcEbGb e g => Sys2Proof.Machine.execAdcEbGb e g s
  | .adcEwGw e g => Sys2Proof.Machine.execAdcEwGw e g s
  | .adcGbEb g e => Sys2Proof.Machine.execAdcGbEb g e s
  | .adcGwEw g e => Sys2Proof.Machine.execAdcGwEw g e s
  | .adcAlIb b => Sys2Proof.Machine.execAdcAlIb b s
  | .adcAxIw w => Sys2Proof.Machine.execAdcAxIw w s
  | .adcEbIb e b => Sys2Proof.Machine.execAdcEbIb e b s
  | .adcEwIw e w => Sys2Proof.Machine.execAdcEwIw e w s
  | .adcEwIb e b => Sys2Proof.Machine.execAdcEwIb e b s
  | .sbbEbGb e g => Sys2Proof.Machine.execSbbEbGb e g s
  | .sbbEwGw e g => Sys2Proof.Machine.execSbbEwGw e g s
  | .sbbGbEb g e => Sys2Proof.Machine.execSbbGbEb g e s
  | .sbbGwEw g e => Sys2Proof.Machine.execSbbGwEw g e s
  | .sbbAlIb b => Sys2Proof.Machine.execSbbAlIb b s
  | .sbbAxIw w => Sys2Proof.Machine.execSbbAxIw w s
  | .sbbEbIb e b => Sys2Proof.Machine.execSbbEbIb e b s
  | .sbbEwIw e w => Sys2Proof.Machine.execSbbEwIw e w s
  | .sbbEwIb e b => Sys2Proof.Machine.execSbbEwIb e b s
  | .andEbGb e g => Sys2Proof.Machine.execAndEbGb e g s
  | .andEwGw e g => Sys2Proof.Machine.execAndEwGw e g s
  | .andGbEb g e => Sys2Proof.Machine.execAndGbEb g e s
  | .andGwEw g e => Sys2Proof.Machine.execAndGwEw g e s
  | .andAlIb b => Sys2Proof.Machine.execAndAlIb b s
  | .andAxIw w => Sys2Proof.Machine.execAndAxIw w s
  | .andEbIb e b => Sys2Proof.Machine.execAndEbIb e b s
  | .andEwIw e w => Sys2Proof.Machine.execAndEwIw e w s
  | .andEwIb e b => Sys2Proof.Machine.execAndEwIb e b s
  | .subEbGb e g => Sys2Proof.Machine.execSubEbGb e g s
  | .subEwGw e g => Sys2Proof.Machine.execSubEwGw e g s
  | .subGbEb g e => Sys2Proof.Machine.execSubGbEb g e s
  | .subGwEw g e => Sys2Proof.Machine.execSubGwEw g e s
  | .subAlIb b => Sys2Proof.Machine.execSubAlIb b s
  | .subAxIw w => Sys2Proof.Machine.execSubAxIw w s
  | .subEbIb e b => Sys2Proof.Machine.execSubEbIb e b s
  | .subEwIw e w => Sys2Proof.Machine.execSubEwIw e w s
  | .subEwIb e b => Sys2Proof.Machine.execSubEwIb e b s
  | .xorEbGb e g => Sys2Proof.Machine.execXorEbGb e g s
  | .xorEwGw e g => Sys2Proof.Machine.execXorEwGw e g s
  | .xorGbEb g e => Sys2Proof.Machine.execXorGbEb g e s
  | .xorGwEw g e => Sys2Proof.Machine.execXorGwEw g e s
  | .xorAlIb b => Sys2Proof.Machine.execXorAlIb b s
  | .xorAxIw w => Sys2Proof.Machine.execXorAxIw w s
  | .xorEbIb e b => Sys2Proof.Machine.execXorEbIb e b s
  | .xorEwIw e w => Sys2Proof.Machine.execXorEwIw e w s
  | .xorEwIb e b => Sys2Proof.Machine.execXorEwIb e b s
  | .cmpEbGb e g => Sys2Proof.Machine.execCmpEbGb e g s
  | .cmpEwGw e g => Sys2Proof.Machine.execCmpEwGw e g s
  | .cmpGbEb g e => Sys2Proof.Machine.execCmpGbEb g e s
  | .cmpGwEw g e => Sys2Proof.Machine.execCmpGwEw g e s
  | .cmpAlIb b => Sys2Proof.Machine.execCmpAlIb b s
  | .cmpAxIw w => Sys2Proof.Machine.execCmpAxIw w s
  | .cmpEbIb e b => Sys2Proof.Machine.execCmpEbIb e b s
  | .cmpEwIw e w => Sys2Proof.Machine.execCmpEwIw e w s
  | .cmpEwIb e b => Sys2Proof.Machine.execCmpEwIb e b s
  | .incR16 r => Sys2Proof.Machine.execIncR16 r s
  | .incEb e => Sys2Proof.Machine.execIncEb e s
  | .incEw e => Sys2Proof.Machine.execIncEw e s
  | .decR16 r => Sys2Proof.Machine.execDecR16 r s
  | .decEb e => Sys2Proof.Machine.execDecEb e s
  | .decEw e => Sys2Proof.Machine.execDecEw e s
  | .negEb e => Sys2Proof.Machine.execNegEb e s
  | .negEw e => Sys2Proof.Machine.execNegEw e s
  | .mulEb e => Sys2Proof.Machine.execMulEb e s
  | .mulEw e => Sys2Proof.Machine.execMulEw e s
  | .imulEb e => Sys2Proof.Machine.execImulEb e s
  | .imulEw e => Sys2Proof.Machine.execImulEw e s
  | .divEb e => Sys2Proof.Machine.execDivEb e s
  | .divEw e => Sys2Proof.Machine.execDivEw e s
  | .idivEb e => Sys2Proof.Machine.execIdivEb e s
  | .idivEw e => Sys2Proof.Machine.execIdivEw e s
  | .cbw => Sys2Proof.Machine.execCbw s
  | .cwd => Sys2Proof.Machine.execCwd s
  | .daa => Sys2Proof.Machine.execDaa s
  | .das => Sys2Proof.Machine.execDas s
  | .aaa => Sys2Proof.Machine.execAaa s
  | .aas => Sys2Proof.Machine.execAas s
  | .aamIb b => Sys2Proof.Machine.execAamIb b s
  | .aadIb b => Sys2Proof.Machine.execAadIb b s
  | .testEbGb e g => Sys2Proof.Machine.execTestEbGb e g s
  | .testEwGw e g => Sys2Proof.Machine.execTestEwGw e g s
  | .testAlIb b => Sys2Proof.Machine.execTestAlIb b s
  | .testAxIw w => Sys2Proof.Machine.execTestAxIw w s
  | .testEbIb e b => Sys2Proof.Machine.execTestEbIb e b s
  | .testEwIw e w => Sys2Proof.Machine.execTestEwIw e w s
  | .notEb e => Sys2Proof.Machine.execNotEb e s
  | .notEw e => Sys2Proof.Machine.execNotEw e s
  | .rolEb1 e => Sys2Proof.Machine.execRolEb1 e s
  | .rolEw1 e => Sys2Proof.Machine.execRolEw1 e s
  | .rolEbCl e => Sys2Proof.Machine.execRolEbCl e s
  | .rolEwCl e => Sys2Proof.Machine.execRolEwCl e s
  | .rolEbIb e b => Sys2Proof.Machine.execRolEbIb e b s
  | .rolEwIb e b => Sys2Proof.Machine.execRolEwIb e b s
  | .rorEb1 e => Sys2Proof.Machine.execRorEb1 e s
  | .rorEw1 e => Sys2Proof.Machine.execRorEw1 e s
  | .rorEbCl e => Sys2Proof.Machine.execRorEbCl e s
  | .rorEwCl e => Sys2Proof.Machine.execRorEwCl e s
  | .rorEbIb e b => Sys2Proof.Machine.execRorEbIb e b s
  | .rorEwIb e b => Sys2Proof.Machine.execRorEwIb e b s
  | .rclEb1 e => Sys2Proof.Machine.execRclEb1 e s
  | .rclEw1 e => Sys2Proof.Machine.execRclEw1 e s
  | .rclEbCl e => Sys2Proof.Machine.execRclEbCl e s
  | .rclEwCl e => Sys2Proof.Machine.execRclEwCl e s
  | .rclEbIb e b => Sys2Proof.Machine.execRclEbIb e b s
  | .rclEwIb e b => Sys2Proof.Machine.execRclEwIb e b s
  | .rcrEb1 e => Sys2Proof.Machine.execRcrEb1 e s
  | .rcrEw1 e => Sys2Proof.Machine.execRcrEw1 e s
  | .rcrEbCl e => Sys2Proof.Machine.execRcrEbCl e s
  | .rcrEwCl e => Sys2Proof.Machine.execRcrEwCl e s
  | .rcrEbIb e b => Sys2Proof.Machine.execRcrEbIb e b s
  | .rcrEwIb e b => Sys2Proof.Machine.execRcrEwIb e b s
  | .shlEb1 e => Sys2Proof.Machine.execShlEb1 e s
  | .shlEw1 e => Sys2Proof.Machine.execShlEw1 e s
  | .shlEbCl e => Sys2Proof.Machine.execShlEbCl e s
  | .shlEwCl e => Sys2Proof.Machine.execShlEwCl e s
  | .shlEbIb e b => Sys2Proof.Machine.execShlEbIb e b s
  | .shlEwIb e b => Sys2Proof.Machine.execShlEwIb e b s
  | .shrEb1 e => Sys2Proof.Machine.execShrEb1 e s
  | .shrEw1 e => Sys2Proof.Machine.execShrEw1 e s
  | .shrEbCl e => Sys2Proof.Machine.execShrEbCl e s
  | .shrEwCl e => Sys2Proof.Machine.execShrEwCl e s
  | .shrEbIb e b => Sys2Proof.Machine.execShrEbIb e b s
  | .shrEwIb e b => Sys2Proof.Machine.execShrEwIb e b s
  | .sarEb1 e => Sys2Proof.Machine.execSarEb1 e s
  | .sarEw1 e => Sys2Proof.Machine.execSarEw1 e s
  | .sarEbCl e => Sys2Proof.Machine.execSarEbCl e s
  | .sarEwCl e => Sys2Proof.Machine.execSarEwCl e s
  | .sarEbIb e b => Sys2Proof.Machine.execSarEbIb e b s
  | .sarEwIb e b => Sys2Proof.Machine.execSarEwIb e b s
  | .movEbGb e g => Sys2Proof.Machine.execMovEbGb e g s
  | .movEwGw e g => Sys2Proof.Machine.execMovEwGw e g s
  | .movGbEb g e => Sys2Proof.Machine.execMovGbEb g e s
  | .movGwEw g e => Sys2Proof.Machine.execMovGwEw g e s
  | .movEbIb e b => Sys2Proof.Machine.execMovEbIb e b s
  | .movEwIw e w => Sys2Proof.Machine.execMovEwIw e w s
  | .movR8Ib r b => Sys2Proof.Machine.execMovR8Ib r b s
  | .movR16Iw r w => Sys2Proof.Machine.execMovR16Iw r w s
  | .movAlMoffs off => Sys2Proof.Machine.execMovAlMoffs off s
  | .movAxMoffs off => Sys2Proof.Machine.execMovAxMoffs off s
  | .movMoffsAl off => Sys2Proof.Machine.execMovMoffsAl off s
  | .movMoffsAx off => Sys2Proof.Machine.execMovMoffsAx off s
  | .movEwSw e sr => Sys2Proof.Machine.execMovEwSw e sr s
  | .movEsEw e => Sys2Proof.Machine.execMovEsEw e s
  | .movSsEw e => Sys2Proof.Machine.execMovSsEw e s
  | .movDsEw e => Sys2Proof.Machine.execMovDsEw e s
  | .pushR16 r => Sys2Proof.Machine.execPushR16 r s
  | .pushEw e => Sys2Proof.Machine.execPushEw e s
  | .pushEs => Sys2Proof.Machine.execPushEs s
  | .pushCs => Sys2Proof.Machine.execPushCs s
  | .pushSs => Sys2Proof.Machine.execPushSs s
  | .pushDs => Sys2Proof.Machine.execPushDs s
  | .popR16 r => Sys2Proof.Machine.execPopR16 r s
  | .popEw e => Sys2Proof.Machine.execPopEw e s
  | .popEs => Sys2Proof.Machine.execPopEs s
  | .popSs => Sys2Proof.Machine.execPopSs s
  | .popDs => Sys2Proof.Machine.execPopDs s
  | .xchgEbGb e g => Sys2Proof.Machine.execXchgEbGb e g s
  | .xchgEwGw e g => Sys2Proof.Machine.execXchgEwGw e g s
  | .xchgAxCx => Sys2Proof.Machine.execXchgAxCx s
  | .xchgAxDx => Sys2Proof.Machine.execXchgAxDx s
  | .xchgAxBx => Sys2Proof.Machine.execXchgAxBx s
  | .xchgAxSp => Sys2Proof.Machine.execXchgAxSp s
  | .xchgAxBp => Sys2Proof.Machine.execXchgAxBp s
  | .xchgAxSi => Sys2Proof.Machine.execXchgAxSi s
  | .xchgAxDi => Sys2Proof.Machine.execXchgAxDi s
  | .xlat => Sys2Proof.Machine.execXlat s
  | .leaGwM g m => Sys2Proof.Machine.execLeaGwM g m s
  | .ldsGwM g m => Sys2Proof.Machine.execLdsGwM g m s
  | .lesGwM g m => Sys2Proof.Machine.execLesGwM g m s
  | .lahf => Sys2Proof.Machine.execLahf s
  | .sahf => Sys2Proof.Machine.execSahf s
  | .pushf => Sys2Proof.Machine.execPushf s
  | .popf => Sys2Proof.Machine.execPopf s
  | .inAlIb b => Sys2Proof.Machine.execInAlIb b s
  | .inAxIb b => Sys2Proof.Machine.execInAxIb b s
  | .inAlDx => Sys2Proof.Machine.execInAlDx s
  | .inAxDx => Sys2Proof.Machine.execInAxDx s
  | .outIbAl b => Sys2Proof.Machine.execOutIbAl b s
  | .outIbAx b => Sys2Proof.Machine.execOutIbAx b s
  | .outDxAl => Sys2Proof.Machine.execOutDxAl s
  | .outDxAx => Sys2Proof.Machine.execOutDxAx s
  | .jmpCb d => Sys2Proof.Machine.execJmpCb d s
  | .jmpCw d => Sys2Proof.Machine.execJmpCw d s
  | .jmpEw e => Sys2Proof.Machine.execJmpEw e s
  | .jmpFar off sel => Sys2Proof.Machine.execJmpFar off sel s
  | .jmpM m => Sys2Proof.Machine.execJmpM m s
  | .callCw d => Sys2Proof.Machine.execCallCw d s
  | .callEw e => Sys2Proof.Machine.execCallEw e s
  | .callFar off sel => Sys2Proof.Machine.execCallFar off sel s
  | .callM m => Sys2Proof.Machine.execCallM m s
  | .ret => Sys2Proof.Machine.execRet s
  | .retIw w => Sys2Proof.Machine.execRetIw w s
  | .retf => Sys2Proof.Machine.execRetf s
  | .retfIw w => Sys2Proof.Machine.execRetfIw w s
  | .jo d => Sys2Proof.Machine.execJo d s
  | .jno d => Sys2Proof.Machine.execJno d s
  | .jb d => Sys2Proof.Machine.execJb d s
  | .jnb d => Sys2Proof.Machine.execJnb d s
  | .je d => Sys2Proof.Machine.execJe d s
  | .jne d => Sys2Proof.Machine.execJne d s
  | .jbe d => Sys2Proof.Machine.execJbe d s
  | .ja d => Sys2Proof.Machine.execJa d s
  | .js d => Sys2Proof.Machine.execJs d s
  | .jns d => Sys2Proof.Machine.execJns d s
  | .jp d => Sys2Proof.Machine.execJp d s
  | .jnp d => Sys2Proof.Machine.execJnp d s
  | .jl d => Sys2Proof.Machine.execJl d s
  | .jge d => Sys2Proof.Machine.execJge d s
  | .jle d => Sys2Proof.Machine.execJle d s
  | .jg d => Sys2Proof.Machine.execJg d s
  | .loop d => Sys2Proof.Machine.execLoop d s
  | .loope d => Sys2Proof.Machine.execLoope d s
  | .loopne d => Sys2Proof.Machine.execLoopne d s
  | .jcxz d => Sys2Proof.Machine.execJcxz d s
  | .intIb b => Sys2Proof.Machine.execIntIb b s
  | .int3 => Sys2Proof.Machine.execInt3 s
  | .into => Sys2Proof.Machine.execInto s
  | .iret => Sys2Proof.Machine.execIret s
  | .movsb => Sys2Proof.Machine.execMovsb s
  | .movsw => Sys2Proof.Machine.execMovsw s
  | .lodsb => Sys2Proof.Machine.execLodsb s
  | .lodsw => Sys2Proof.Machine.execLodsw s
  | .cmpsb => Sys2Proof.Machine.execCmpsb s
  | .cmpsw => Sys2Proof.Machine.execCmpsw s
  | .scasb => Sys2Proof.Machine.execScasb s
  | .scasw => Sys2Proof.Machine.execScasw s
  | .stosb => Sys2Proof.Machine.execStosb s
  | .stosw => Sys2Proof.Machine.execStosw s
  | .clc => Sys2Proof.Machine.execClc s
  | .stc => Sys2Proof.Machine.execStc s
  | .cmc => Sys2Proof.Machine.execCmc s
  | .cld => Sys2Proof.Machine.execCld s
  | .std => Sys2Proof.Machine.execStd s
  | .cli => Sys2Proof.Machine.execCli s
  | .sti => Sys2Proof.Machine.execSti s
  | .nop => Sys2Proof.Machine.execNop s
  | .hlt => Sys2Proof.Machine.execHlt s
  | .wait => Sys2Proof.Machine.execWait s
  | .esc op reg e => Sys2Proof.Machine.execEsc op reg e s
  | .segEs => Sys2Proof.Machine.execSegEs s
  | .segCs => Sys2Proof.Machine.execSegCs s
  | .segSs => Sys2Proof.Machine.execSegSs s
  | .segDs => Sys2Proof.Machine.execSegDs s
  | .lock => Sys2Proof.Machine.execLock s
  | .repne => Sys2Proof.Machine.execRepne s
  | .rep => Sys2Proof.Machine.execRep s
  | .invalid raw => Sys2Proof.Machine.execInvalid raw s
  | .pusha => Sys2Proof.Machine.execPusha s
  | .popa => Sys2Proof.Machine.execPopa s
  | .boundGwM g m => Sys2Proof.Machine.execBoundGwM g m s
  | .pushIw w => Sys2Proof.Machine.execPushIw w s
  | .pushIb b => Sys2Proof.Machine.execPushIb b s
  | .imulGwEwIw g e w => Sys2Proof.Machine.execImulGwEwIw g e w s
  | .imulGwEwIb g e b => Sys2Proof.Machine.execImulGwEwIb g e b s
  | .insb => Sys2Proof.Machine.execInsb s
  | .insw => Sys2Proof.Machine.execInsw s
  | .outsb => Sys2Proof.Machine.execOutsb s
  | .outsw => Sys2Proof.Machine.execOutsw s
  | .enterIwIb size level => Sys2Proof.Machine.execEnterIwIb size level s
  | .leave => Sys2Proof.Machine.execLeave s

end Sys2Proof.Machine
end

