-- ==== Sys2Proof/Machine/Step.lean ====
section
/-! DEFINITION. One step (spec/00_scope.md R4, R11): decode at CS:IP, advance IP by the length, execute; and how the
host places one instruction word for a step. -/

namespace Sys2Proof.Machine

/-- The bytes of R94 before the opcode, each recorded in its order (30_encoding.md R95). -/
def execPrefixes (ps : List Prefix) (s : State) : Host.Outcome State Fault Refusal :=
  match ps with
  | [] => .next s
  | p :: rest => thenDo (exec p.instr s) (execPrefixes rest)

/-- One step (R4): (a) none when halted, (b) decode, (c) advance IP, (d) execute. -/
def step (s : State) : Host.Outcome State Fault Refusal :=
  if s.halted then .fault .halted
  else
    match s.decodeNext with
    | .error _ => .refused .truncatedFetch
    | .ok (d, len) =>
      thenDo (execPrefixes d.prefixes (s.advance len)) fun s1 =>
        thenDo (exec d.op s1) fun s2 => .next s2.endInstr

/-- The state with an instruction of the opcode table stored where `step` fetches next: the bytes at CS:IP, the machine
not halted, and `ISA_186` true if the word is an instruction of the 186 rows only (log entries 10, 13). -/
def State.withFetchWord (s : State) (nbits w : Nat) : State :=
  let bs := tableBytes nbits w
  { s.storeCode s.ip bs with halted := false, isa186 := s.isa186 || needs186 bs }

end Sys2Proof.Machine
end

