-- ==== Sys2Proof/Machine/HostControl.lean ====
section
/-! DEFINITION. The control interface (spec/00_scope.md R8) and the platform's duties before a run
(70_reset_and_hazards.md R450 to R456). The host acts between steps (20_memory.md R86): none of these is a step. -/

namespace Sys2Proof.Machine

/-- `reset` (R450): every piece of state inside the block at its value of R46; memory, the parameter `ISA_186` and the
model's own record of draws and port transactions stay. -/
def State.hostReset (s : State) : State :=
  { State.reset with mem := s.mem, isa186 := s.isa186, draws := s.draws, io := s.io }

/-- The context of `execute` (R452). `args` is for the host and not used by the block. -/
structure Context where
  codeSegment : Word
  instructionPointer : Word
  dataSegment : Word
deriving DecidableEq, Repr

/-- What `execute(context)` sets before its loop (R452). -/
def State.startContext (s : State) (c : Context) : State :=
  { s with
    segs := { es := c.dataSegment, cs := c.codeSegment, ss := c.dataSegment, ds := c.dataSegment }
    ip := c.instructionPointer
    halted := false }

/-- At most `fuel` steps, until `halted` (R452). A run may not end: `none` says that the fuel did not suffice. -/
def runUntilHalt : Nat → State → Option State
  | 0, s => if s.halted then some s else none
  | fuel + 1, s =>
    if s.halted then some s
    else
      match step s with
      | .next t => runUntilHalt fuel t
      | .fault _ => none
      | .refused _ => none

/-- `execute(context)` (R452), given up after `fuel` steps: the host may stop at any step boundary. -/
def execute (c : Context) (fuel : Nat) (s : State) : Option State := runUntilHalt fuel (s.startContext c)

/-- Vector `n`, a plain entry of the table, at `segment:offset` (20_memory.md R75). -/
def State.setVector (s : State) (n : Byte) (segment offset : Word) : State :=
  let p := 4 * n.toNat
  let m1 := (s.mem.write p (Word.lo offset)).write (p + 1) (Word.hi offset)
  { s with mem := (m1.write (p + 2) (Word.lo segment)).write (p + 3) (Word.hi segment) }

/-- `register(vector, segment, offset, handler)` (60_exceptions.md R416): the entry, and the handler bit. -/
def State.register (s : State) (vector : Byte) (segment offset : Word) (handler : Bool) : State :=
  let t := s.setVector vector segment offset
  let bit := BitVec.twoPow 256 vector.toNat
  { t with handler := if handler then t.handler ||| bit else t.handler &&& ~~~bit }

/-- The first `n` vectors at one address. -/
def State.fillVectors (s : State) (segment offset : Word) : Nat → State
  | 0 => s
  | n + 1 => (s.fillVectors segment offset n).setVector (BitVec.ofNat 8 n) segment offset

/-- The IRET stub and the 256 default vectors (R455, 60_exceptions.md R417). `STUB_SEG` and `STUB_OFF` are the
platform's. -/
def State.installStub (s : State) (stubSeg stubOff : Word) : State :=
  (s.write8 stubSeg stubOff 0xCF#8).fillVectors stubSeg stubOff 256

/-- An image's bytes from `seg:off` upward, each offset wrapped at 2^16. -/
def State.loadBytes (s : State) (seg off : Word) : List Byte → State
  | [] => s
  | b :: bs => State.loadBytes (s.write8 seg off b) seg (off + 1#16) bs

/-- The loader's convention (R453): the image at `seg:0x0100`, every segment register `seg`, IP 0x0100.
An image of more than 0xFF00 bytes is not loaded: the rule does not say where its tail goes (log entry 12). -/
def State.loadCom (s : State) (seg : Word) (image : List Byte) : Option State :=
  if image.length ≤ 0xFF00 then
    some ((s.loadBytes seg 0x0100#16 image).startContext
      { codeSegment := seg, instructionPointer := 0x0100#16, dataSegment := seg })
  else none

end Sys2Proof.Machine
end

