-- ==== Sys2Proof/Safety.lean ====
section
/-! DEFINITION. The terms that claims use: the invariant of a machine, frames (what two states agree on), the flags of
a result as the spec's arithmetic reads them, stack traffic, and the entry into an interrupt. Each is written from
the rules, apart from the operations of Machine/. -/

namespace Sys2Proof.Machine

/-- The invariant of the state between steps: memory in its canonical form (20_memory.md R61), VM = 0 (10_state.md
R32), and no byte of R94 remembered (R44). -/
def State.Inv (s : State) : Prop := s.mem.wf = true ∧ s.vm = false ∧ s.pfx = Pfx.none

/-! ## Frames -/

/-- The parts of the state besides the general registers and memory. The model's counter of draws is not among them: no
claim rests on it. -/
inductive Part where
  | es | cs | ss | ds | ip | flags | vm | handler | halted | isa186 | pfx | io
deriving DecidableEq, Repr

/-- Two states agree on a part. -/
def Part.Same (s t : State) : Part → Prop
  | .es => t.segs.es = s.segs.es
  | .cs => t.segs.cs = s.segs.cs
  | .ss => t.segs.ss = s.segs.ss
  | .ds => t.segs.ds = s.segs.ds
  | .ip => t.ip = s.ip
  | .flags => t.flags = s.flags
  | .vm => t.vm = s.vm
  | .handler => t.handler = s.handler
  | .halted => t.halted = s.halted
  | .isa186 => t.isa186 = s.isa186
  | .pfx => t.pfx = s.pfx
  | .io => t.io = s.io

/-- THE FRAME. `t` differs from `s` at most in the general registers `regs`, the memory bytes at the physical addresses
`bytes`, and the parts `parts`. -/
structure Changes (s t : State) (regs : List Reg16) (bytes : List Nat) (parts : List Part) : Prop where
  regs : ∀ r, r ∉ regs → t.reg16 r = s.reg16 r
  bytes : ∀ a, a ∉ bytes → t.mem.read a = s.mem.read a
  parts : ∀ p, p ∉ parts → p.Same s t

/-- An 8-bit operand holds `v` in `t`: one half of a register with the other half kept (10_state.md R22), or the one
byte at its address; the rest is framed. -/
def Wrote8 (s t : State) (e : Eb) (v : Byte) (parts : List Part) : Prop :=
  match e with
  | .reg r => t.reg8 r = v ∧ (∀ q, q ≠ r → t.reg8 q = s.reg8 q) ∧ Changes s t [Reg8.home r] [] parts
  | .mem m =>
    t.mem.read (phys (s.memSeg m) (s.ea m)) = v ∧ Changes s t [] [phys (s.memSeg m) (s.ea m)] parts

/-- The two bytes of a word at an offset, the second at the next offset modulo 2^16 (20_memory.md R64). -/
def wordBytes (seg off : Word) : List Nat := [phys seg off, phys seg (off + 1#16)]

/-- The word at an offset, low byte first (20_memory.md R63, R64). -/
def State.HoldsWord (t : State) (seg off v : Word) : Prop :=
  t.mem.read (phys seg off) = Word.lo v ∧ t.mem.read (phys seg (off + 1#16)) = Word.hi v

/-- A 16-bit operand holds `v` in `t`; the rest is framed. -/
def Wrote16 (s t : State) (e : Ew) (v : Word) (parts : List Part) : Prop :=
  match e with
  | .reg r => t.reg16 r = v ∧ Changes s t [r] [] parts
  | .mem m => t.HoldsWord (s.memSeg m) (s.ea m) v ∧ Changes s t [] (wordBytes (s.memSeg m) (s.ea m)) parts

/-! ## Flags -/

/-- An even number of one bits in the low byte (00_scope.md R12). -/
def EvenOnes {w : Nat} (r : BitVec w) : Prop := ((List.range 8).filter fun k => r.getLsbD k).length % 2 = 0

/-- ZF, SF and PF are those of a result (10_state.md R37). -/
structure SzpOf {w : Nat} (r : BitVec w) (g : Flags) : Prop where
  zf : g.ZF = true ↔ r.toNat = 0
  sf : g.SF = true ↔ 2 ^ w ≤ 2 * r.toNat
  pf : g.PF = true ↔ EvenOnes r

/-- The control flags TF, IF and DF are kept. -/
structure ControlKept (f g : Flags) : Prop where
  tf : g.TF = f.TF
  ifl : g.IF = f.IF
  df : g.DF = f.DF

/-- The flags `g` after adding `a`, `b` and `c` (10_state.md R34): CF is a sum of 2^w or more, AF a carry out of bit 3,
OF a signed sum outside the signed range; the flags of the result `r`; the control flags of `f`. -/
structure AddSets {w : Nat} (a b : BitVec w) (c : Bool) (r : BitVec w) (f g : Flags) : Prop where
  cf : g.CF = true ↔ 2 ^ w ≤ a.toNat + b.toNat + c.toNat
  af : g.AF = true ↔ 16 ≤ a.toNat % 16 + b.toNat % 16 + c.toNat
  ofl : g.OF = true ↔
    (2 ^ w : Int) ≤ 2 * (a.toInt + b.toInt + c.toNat) ∨ 2 * (a.toInt + b.toInt + c.toNat) < -(2 ^ w : Int)
  szp : SzpOf r g
  control : ControlKept f g

/-- The flags `g` after subtracting `b` and `c` from `a` (10_state.md R35): CF is a borrow, AF a borrow out of the low
nibble, OF a signed difference outside the signed range. -/
structure SubSets {w : Nat} (a b : BitVec w) (c : Bool) (r : BitVec w) (f g : Flags) : Prop where
  cf : g.CF = true ↔ a.toNat < b.toNat + c.toNat
  af : g.AF = true ↔ a.toNat % 16 < b.toNat % 16 + c.toNat
  ofl : g.OF = true ↔
    (2 ^ w : Int) ≤ 2 * (a.toInt - b.toInt - c.toNat) ∨ 2 * (a.toInt - b.toInt - c.toNat) < -(2 ^ w : Int)
  szp : SzpOf r g
  control : ControlKept f g

/-- The flags `g` after a logical result `r` (10_state.md R36). -/
structure LogicSets {w : Nat} (r : BitVec w) (f g : Flags) : Prop where
  cf : g.CF = false
  ofl : g.OF = false
  af : g.AF = false
  szp : SzpOf r g
  control : ControlKept f g

/-- The flags `g` are those of a subtraction or addition `h`, but CF is kept from `f` (40_arithmetic.md R148, R149). -/
structure CarryKept (f g h : Flags) : Prop where
  cf : g.CF = f.CF
  pf : g.PF = h.PF
  af : g.AF = h.AF
  zf : g.ZF = h.ZF
  sf : g.SF = h.SF
  ofl : g.OF = h.OF
  control : ControlKept f g

/-- The flags `g` are the bits of an image (10_state.md R31). -/
structure FlagsFrom (v : Word) (g : Flags) : Prop where
  cf : g.CF = v.getLsbD 0
  pf : g.PF = v.getLsbD 2
  af : g.AF = v.getLsbD 4
  zf : g.ZF = v.getLsbD 6
  sf : g.SF = v.getLsbD 7
  tf : g.TF = v.getLsbD 8
  ifl : g.IF = v.getLsbD 9
  df : g.DF = v.getLsbD 10
  ofl : g.OF = v.getLsbD 11

/-! ## The two-operand template (40_arithmetic.md R140) at both widths -/

/-- `e` holds the sum of `a`, `b` and `c`, the flags are those of the addition. -/
def Added8 (s t : State) (e : Eb) (a b : Byte) (c : Bool) : Prop :=
  Wrote8 s t e (BitVec.ofNat 8 (a.toNat + b.toNat + c.toNat)) [.flags] ∧
    AddSets a b c (BitVec.ofNat 8 (a.toNat + b.toNat + c.toNat)) s.flags t.flags

/-- The same at width 16. -/
def Added16 (s t : State) (e : Ew) (a b : Word) (c : Bool) : Prop :=
  Wrote16 s t e (BitVec.ofNat 16 (a.toNat + b.toNat + c.toNat)) [.flags] ∧
    AddSets a b c (BitVec.ofNat 16 (a.toNat + b.toNat + c.toNat)) s.flags t.flags

/-- The difference `a - b - c` modulo 2^w. -/
def difference {w : Nat} (a b : BitVec w) (c : Bool) : BitVec w :=
  BitVec.ofNat w (2 * 2 ^ w + a.toNat - b.toNat - c.toNat)

/-- `e` holds `a - b - c`, the flags are those of the subtraction. -/
def Subtracted8 (s t : State) (e : Eb) (a b : Byte) (c : Bool) : Prop :=
  Wrote8 s t e (difference a b c) [.flags] ∧ SubSets a b c (difference a b c) s.flags t.flags

/-- The same at width 16. -/
def Subtracted16 (s t : State) (e : Ew) (a b : Word) (c : Bool) : Prop :=
  Wrote16 s t e (difference a b c) [.flags] ∧ SubSets a b c (difference a b c) s.flags t.flags

/-- The flags alone are those of `a - b` (CMP, CMPS, SCAS). -/
def Compared {w : Nat} (s t : State) (a b : BitVec w) : Prop :=
  Changes s t [] [] [.flags] ∧ SubSets a b false (difference a b false) s.flags t.flags

/-- `e` holds `r`, the flags are those of a logical result. -/
def Logical8 (s t : State) (e : Eb) (r : Byte) : Prop := Wrote8 s t e r [.flags] ∧ LogicSets r s.flags t.flags

/-- The same at width 16. -/
def Logical16 (s t : State) (e : Ew) (r : Word) : Prop := Wrote16 s t e r [.flags] ∧ LogicSets r s.flags t.flags

/-! ## The stack (20_memory.md R70, R71) -/

/-- SP less `k`, modulo 2^16. -/
def State.below (s : State) (k : Nat) : Word := s.reg16 .sp - BitVec.ofNat 16 k

/-- SP plus `k`, modulo 2^16. -/
def State.above (s : State) (k : Nat) : Word := s.reg16 .sp + BitVec.ofNat 16 k

/-- The addresses of the `n` bytes under SS:SP. -/
def State.stackBytes (s : State) (n : Nat) : List Nat :=
  (List.range n).map fun j => phys (s.seg .ss) (s.below (j + 1))

/-- The words `vs` pushed, the first one first: SP down by two each, each word at its slot, the rest framed. -/
def Pushed (s t : State) (vs : List Word) (regs : List Reg16) (parts : List Part) : Prop :=
  t.reg16 .sp = s.below (2 * vs.length) ∧
    (∀ k v, vs[k]? = some v → t.HoldsWord (s.seg .ss) (s.below (2 * k + 2)) v) ∧
    Changes s t (.sp :: regs) (s.stackBytes (2 * vs.length)) parts

/-- The `k`-th word on the stack, from 0. -/
def State.stackWord (s : State) (k : Nat) : Word := s.read16 (s.seg .ss) (s.above (2 * k))

/-! ## Interrupts (60_exceptions.md R412 to R415) -/

/-- The flags at interrupt entry: TF and IF cleared, the rest kept (R412). -/
def Flags.masked (f : Flags) : Flags := { f with TF := false, IF := false }

/-- The three pushes of entry have been made: the image, CS, the advanced IP; TF and IF are 0. -/
def Framed (s p : State) : Prop :=
  Pushed s p [s.flags.image, s.seg .cs, s.ip] [] [.flags] ∧ p.flags = s.flags.masked

/-- Entry through the vector in memory (R412, R413, 20_memory.md R75), read after the pushes. -/
def Vectored (s t : State) (n : Byte) : Prop :=
  Pushed s t [s.flags.image, s.seg .cs, s.ip] [] [.flags, .cs, .ip] ∧ t.flags = s.flags.masked ∧
    t.ip = Word.ofBytes (t.mem.read (4 * n.toNat)) (t.mem.read (4 * n.toNat + 1)) ∧
    t.seg .cs = Word.ofBytes (t.mem.read (4 * n.toNat + 2)) (t.mem.read (4 * n.toNat + 3))

/-- The three pops of IRET, from `u` to `t` (43_control_transfer.md R300). -/
def Returned (u t : State) : Prop :=
  t.ip = u.stackWord 0 ∧ t.seg .cs = u.stackWord 1 ∧ FlagsFrom (u.stackWord 2) t.flags ∧
    t.reg16 .sp = u.above 6 ∧ Changes u t [.sp] [] [.cs, .ip, .flags]

/-- Entry to a registered handler: the host runs on the framed state, then the block makes the pops itself (R414). What
the host leaves is not constrained (R415). -/
def Hosted (s t : State) (n : Byte) : Prop := ∃ p, Framed s p ∧ Returned (p.hostService n) t

/-- `raise Interrupt(n)` (R412): the handler if there is one, else the vector. -/
def Raised (s t : State) (n : Byte) : Prop :=
  (s.handler.getLsbD n.toNat = true ∧ Hosted s t n) ∨ (s.handler.getLsbD n.toNat = false ∧ Vectored s t n)

/-! ## Shifts and rotates as arithmetic on the whole count (41_logic_shift.md R198 to R206) -/

/-- What a shift or rotate by `n` gives: the result, the last bit out, and OF where the count is 1. -/
structure Shifted (w : Nat) where
  value : BitVec w
  carry : Bool
  overflow : Bool

/-- SHL (R200): the operand times 2^n; the carry is bit w of that product; OF says that the sign changed. -/
def shlBy {w : Nat} (a : BitVec w) (n : Nat) : Shifted w :=
  let r := BitVec.ofNat w (a.toNat * 2 ^ n)
  { value := r, carry := decide (a.toNat * 2 ^ n / 2 ^ w % 2 = 1), overflow := a.msb != r.msb }

/-- SHR (R201): the unsigned quotient by 2^n; OF is the sign before. -/
def shrBy {w : Nat} (a : BitVec w) (n : Nat) : Shifted w :=
  { value := BitVec.ofNat w (a.toNat / 2 ^ n), carry := decide (a.toNat / 2 ^ (n - 1) % 2 = 1), overflow := a.msb }

/-- SAR (R202): the signed quotient by 2^n, rounded down; OF is 0. -/
def sarBy {w : Nat} (a : BitVec w) (n : Nat) : Shifted w :=
  { value := BitVec.ofInt w (a.toInt / 2 ^ n), carry := decide (a.toInt / 2 ^ (n - 1) % 2 = 1), overflow := false }

/-- ROL (R203): the carry is the new bit 0. -/
def rolBy {w : Nat} (a : BitVec w) (n : Nat) : Shifted w :=
  let r := a.rotateLeft n
  { value := r, carry := r.getLsbD 0, overflow := r.msb != r.getLsbD 0 }

/-- ROR (R204): the carry is the new top bit; OF says that the two top bits differ. -/
def rorBy {w : Nat} (a : BitVec w) (n : Nat) : Shifted w :=
  let r := a.rotateRight n
  { value := r, carry := r.msb, overflow := r.msb != r.getLsbD (w - 2) }

/-- RCL (R205): operand and CF are a ring of w + 1 bits, CF on top. -/
def rclBy {w : Nat} (a : BitVec w) (c : Bool) (n : Nat) : Shifted w :=
  let ring := (BitVec.ofBool c ++ a).rotateLeft n
  let r := ring.setWidth w
  { value := r, carry := ring.msb, overflow := r.msb != ring.msb }

/-- RCR (R206). -/
def rcrBy {w : Nat} (a : BitVec w) (c : Bool) (n : Nat) : Shifted w :=
  let ring := (BitVec.ofBool c ++ a).rotateRight n
  let r := ring.setWidth w
  { value := r, carry := ring.msb, overflow := r.msb != r.getLsbD (w - 2) }

/-- The count that is used (R198, 46_ext186.md R392). -/
def State.countOf (s : State) (n : Byte) : Nat := if s.isa186 then n.toNat % 32 else n.toNat

/-- The flags after a shift with count `n` of 1 or more: CF, SF, ZF, PF, and OF if `n` is 1; AF, and OF above 1, are
undefined and so not mentioned. -/
structure ShiftSets {w : Nat} (r : Shifted w) (n : Nat) (f g : Flags) : Prop where
  cf : g.CF = r.carry
  ofl : n = 1 → g.OF = r.overflow
  szp : SzpOf r.value g
  control : ControlKept f g

/-- The flags after a rotate: CF, and OF if `n` is 1; SF, ZF, AF, PF are kept. -/
structure RotateSets {w : Nat} (r : Shifted w) (n : Nat) (f g : Flags) : Prop where
  cf : g.CF = r.carry
  ofl : n = 1 → g.OF = r.overflow
  sf : g.SF = f.SF
  zf : g.ZF = f.ZF
  af : g.AF = f.AF
  pf : g.PF = f.PF
  control : ControlKept f g

/-- A shift at width 8 by `n`; with count 0 nothing changes (R199). -/
def ShiftDone8 (s t : State) (e : Eb) (n : Nat) (r : Shifted 8) : Prop :=
  if n = 0 then Changes s t [] [] [] else Wrote8 s t e r.value [.flags] ∧ ShiftSets r n s.flags t.flags

/-- A shift at width 16 by `n`. -/
def ShiftDone16 (s t : State) (e : Ew) (n : Nat) (r : Shifted 16) : Prop :=
  if n = 0 then Changes s t [] [] [] else Wrote16 s t e r.value [.flags] ∧ ShiftSets r n s.flags t.flags

/-- A rotate at width 8 by `n`. -/
def RotateDone8 (s t : State) (e : Eb) (n : Nat) (r : Shifted 8) : Prop :=
  if n = 0 then Changes s t [] [] [] else Wrote8 s t e r.value [.flags] ∧ RotateSets r n s.flags t.flags

/-- A rotate at width 16 by `n`. -/
def RotateDone16 (s t : State) (e : Ew) (n : Nat) (r : Shifted 16) : Prop :=
  if n = 0 then Changes s t [] [] [] else Wrote16 s t e r.value [.flags] ∧ RotateSets r n s.flags t.flags

/-! ## Strings (44_string.md R320) -/

/-- An index register moved by `n` bytes in the direction of DF, modulo 2^16. -/
def State.moved (s : State) (r : Reg16) (n : Nat) : Word :=
  if s.flags.DF then BitVec.ofInt 16 ((s.reg16 r).toNat - n) else BitVec.ofNat 16 ((s.reg16 r).toNat + n)

/-- The segment value of a source element: the override, or DS. -/
def State.sourceSeg (s : State) : Word := (s.pfx.seg.map s.seg).getD (s.seg .ds)

/-- The addresses of the `n` byte elements of a string at an index register, in the order of the loop. -/
def State.elements (s : State) (seg : Word) (r : Reg16) (n : Nat) : List Nat :=
  (List.range n).map fun k => phys seg (s.moved r k)

/-- The addresses of the `n` word elements of a string at an index register, in the order of the loop. -/
def State.wordElements (s : State) (seg : Word) (r : Reg16) (n : Nat) : List Nat :=
  (List.range n).flatMap fun k => wordBytes seg (s.moved r (2 * k))

/-! ## Effective addresses (30_encoding.md R102, R103) -/

/-- The registers that the `rm` code of a memory form adds (R102), before any reduction. -/
def State.baseSum (s : State) : EABase → Nat
  | .bxsi => (s.reg16 .bx).toNat + (s.reg16 .si).toNat
  | .bxdi => (s.reg16 .bx).toNat + (s.reg16 .di).toNat
  | .bpsi => (s.reg16 .bp).toNat + (s.reg16 .si).toNat
  | .bpdi => (s.reg16 .bp).toNat + (s.reg16 .di).toNat
  | .si => (s.reg16 .si).toNat
  | .di => (s.reg16 .di).toNat
  | .bp => (s.reg16 .bp).toNat
  | .bx => (s.reg16 .bx).toNat

/-! ## Branches (43_control_transfer.md R286 to R291) -/

/-- IP moves by the signed displacement, modulo 2^16, if the condition holds, else stays (R107, R286). -/
def Branched (s t : State) (taken : Prop) (d : Byte) : Prop :=
  (taken → t.ip = BitVec.ofInt 16 (s.ip.toNat + d.toInt)) ∧ (¬taken → t.ip = s.ip) ∧ Changes s t [] [] [.ip]

/-- CX goes down by one modulo 2^16; the branch is taken if it is then not 0 and the condition holds (R288 to R290). -/
def Looped (s t : State) (also : Prop) (d : Byte) : Prop :=
  (t.reg16 .cx).toNat = ((s.reg16 .cx).toNat + 0xFFFF) % 0x10000 ∧
    (t.reg16 .cx ≠ 0#16 ∧ also → t.ip = BitVec.ofInt 16 (s.ip.toNat + d.toInt)) ∧
    (¬(t.reg16 .cx ≠ 0#16 ∧ also) → t.ip = s.ip) ∧ Changes s t [.cx] [] [.ip]

end Sys2Proof.Machine

namespace Sys2Proof

/-- Does the `rm` code add BP (30_encoding.md R102)? -/
def EABase.usesBp : EABase → Bool
  | .bpsi => true
  | .bpdi => true
  | .bp => true
  | .bxsi => false
  | .bxdi => false
  | .si => false
  | .di => false
  | .bx => false

/-- The segment register that a byte of R94 names (30_encoding.md R96). -/
def Prefix.segment : Prefix → Option SReg
  | .es => some .es
  | .cs => some .cs
  | .ss => some .ss
  | .ds => some .ds
  | .lock => none
  | .repne => none
  | .rep => none

/-- The repeat that a byte of R94 asks for (30_encoding.md R94). -/
def Prefix.repeats : Prefix → Option Rep
  | .es => none
  | .cs => none
  | .ss => none
  | .ds => none
  | .lock => none
  | .repne => some .repne
  | .rep => some .rep

/-- These bytes are the instruction's encoding, whatever follows them and under either value of `ISA_186`. -/
def EncodedBy (bytes : List Byte) (i : Instr) : Prop :=
  ∀ (isa186 : Bool) (rest : List Byte), decode isa186 (bytes ++ rest) = .ok (⟨[], i⟩, rest)

/-! ## Families of instructions, as the rules list them -/

/-- The string instructions that compare (44_string.md R331). -/
def Instr.comparesStrings : Instr → Bool
  | .cmpsb | .cmpsw | .scasb | .scasw => true
  | _ => false

/-- The fourteen string instructions (44_string.md R330, 46_ext186.md R387, R388). -/
def Instr.isString : Instr → Bool
  | .movsb | .movsw | .cmpsb | .cmpsw | .stosb | .stosw | .lodsb | .lodsw | .scasb | .scasw => true
  | .insb | .insw | .outsb | .outsw => true
  | _ => false

/-- The string instructions with a byte element; the others have a word (44_string.md R320). -/
def Instr.byteElement : Instr → Bool
  | .movsb | .cmpsb | .stosb | .lodsb | .scasb | .insb | .outsb => true
  | _ => false

/-- The string instructions that step SI (44_string.md R321 to R323, 46_ext186.md R388). -/
def Instr.stepsSi : Instr → Bool
  | .movsb | .movsw | .cmpsb | .cmpsw | .lodsb | .lodsw | .outsb | .outsw => true
  | _ => false

/-- The string instructions that step DI (44_string.md R321, R323 to R325, 46_ext186.md R387). -/
def Instr.stepsDi : Instr → Bool
  | .movsb | .movsw | .cmpsb | .cmpsw | .stosb | .stosw | .scasb | .scasw | .insb | .insw => true
  | _ => false

/-- The string instructions that write their destination element (44_string.md R321, R325, 46_ext186.md R387). -/
def Instr.storesElement : Instr → Bool
  | .movsb | .movsw | .stosb | .stosw | .insb | .insw => true
  | _ => false

/-- The general registers that an element of a string instruction may write: AX for LODS, the indices it steps. -/
def Instr.elementRegs (i : Instr) : List Reg16 :=
  (if i = .lodsb ∨ i = .lodsw then [.ax] else []) ++ (if i.stepsSi then [.si] else []) ++ (if i.stepsDi then [.di] else [])

/-- The parts that an element of a string instruction may write: the flags for CMPS and SCAS, the record of port
transactions for INS and OUTS. -/
def Instr.elementParts (i : Instr) : List Machine.Part :=
  if i.comparesStrings then [.flags]
  else if i = .insb ∨ i = .insw ∨ i = .outsb ∨ i = .outsw then [.io]
  else []

/-- The addresses that `n` elements of a string instruction store to, at ES:DI (44_string.md R320). -/
def Machine.State.storedElements (s : Machine.State) (i : Instr) (n : Nat) : List Nat :=
  if i.storesElement then
    if i.byteElement then s.elements (s.seg .es) .di n else s.wordElements (s.seg .es) .di n
  else []

/-- The instructions that can raise an interrupt (60_exceptions.md R410). -/
def Instr.mayRaise : Instr → Bool
  | .divEb _ | .divEw _ | .idivEb _ | .idivEw _ | .aamIb _ => true
  | .int3 | .into | .intIb _ | .boundGwM _ _ | .invalid _ => true
  | _ => false

/-- The instructions that write CS without raising (10_state.md R27). -/
def Instr.loadsCs : Instr → Bool
  | .jmpFar _ _ | .jmpM _ | .callFar _ _ | .callM _ | .retf | .retfIw _ | .iret => true
  | _ => false

/-- The other instructions that transfer control (10_state.md R28, R29). -/
def Instr.jumpsNear : Instr → Bool
  | .jmpCb _ | .jmpCw _ | .jmpEw _ | .callCw _ | .callEw _ | .ret | .retIw _ => true
  | .jo _ | .jno _ | .jb _ | .jnb _ | .je _ | .jne _ | .jbe _ | .ja _ => true
  | .js _ | .jns _ | .jp _ | .jnp _ | .jl _ | .jge _ | .jle _ | .jg _ => true
  | .loop _ | .loope _ | .loopne _ | .jcxz _ => true
  | _ => false

end Sys2Proof
end

