-- ==== Sys2Proof/Certificates/Slice0/Obligations.lean ====
section
/-! DEFINITION. The statements for the provers: what decoding, the instructions, the step and the host's operations do, from the
numbered rules of spec/. The terms they use are those of Sys2Proof/Safety.lean. -/

open Sys2Proof Sys2Proof.Machine

/-- Words that the spec writes out bit by bit, at least one of each family, decode to the instruction they stand for.
-/
def Obligations.SpecWordsDecode : Prop :=
  decode false [0x05#8, 0x03#8, 0x00#8] = .ok (⟨[], .addAxIw 0x0003#16⟩, []) ∧
  decode false [0x83#8, 0xC3#8, 0xFF#8] = .ok (⟨[], .addEwIb (.reg .bx) 0xFF#8⟩, []) ∧
  decode false [0x01#8, 0xD8#8] = .ok (⟨[], .addEwGw (.reg .ax) .bx⟩, []) ∧
  decode false [0xF6#8, 0xFB#8] = .ok (⟨[], .idivEb (.reg .bl)⟩, []) ∧
  decode false [0xF7#8, 0xD0#8] = .ok (⟨[], .notEw (.reg .ax)⟩, []) ∧
  decode false [0xD2#8, 0xE0#8] = .ok (⟨[], .shlEbCl (.reg .al)⟩, []) ∧
  decode false [0xD0#8, 0xD8#8] = .ok (⟨[], .rcrEb1 (.reg .al)⟩, []) ∧
  decode false [0x88#8, 0x40#8, 0x04#8] = .ok (⟨[], .movEbGb (.mem (.disp8 .bxsi 0x04#8)) .al⟩, []) ∧
  decode false [0x26#8, 0x8A#8, 0x07#8] = .ok (⟨[.es], .movGbEb .al (.mem (.base .bx))⟩, []) ∧
  decode false [0xC7#8, 0x84#8, 0x00#8, 0x10#8, 0xCD#8, 0xAB#8] = .ok (⟨[], .movEwIw (.mem (.disp16 .si 0x1000#16)) 0xABCD#16⟩, []) ∧
  decode false [0x8C#8, 0xD8#8] = .ok (⟨[], .movEwSw (.reg .ax) .ds⟩, []) ∧
  decode false [0xFF#8, 0x37#8] = .ok (⟨[], .pushEw (.mem (.base .bx))⟩, []) ∧
  decode false [0xC4#8, 0x3E#8, 0x00#8, 0x02#8] = .ok (⟨[], .lesGwM .di (.direct 0x0200#16)⟩, []) ∧
  decode false [0x93#8] = .ok (⟨[], .xchgAxBx⟩, []) ∧
  decode false [0xEE#8] = .ok (⟨[], .outDxAl⟩, []) ∧
  decode false [0xEA#8, 0xF0#8, 0xFF#8, 0x00#8, 0xF0#8] = .ok (⟨[], .jmpFar 0xFFF0#16 0xF000#16⟩, []) ∧
  decode false [0xE8#8, 0x10#8, 0x00#8] = .ok (⟨[], .callCw 0x0010#16⟩, []) ∧
  decode false [0x75#8, 0xFB#8] = .ok (⟨[], .jne 0xFB#8⟩, []) ∧
  decode false [0xE2#8, 0xFE#8] = .ok (⟨[], .loop 0xFE#8⟩, []) ∧
  decode false [0xCD#8, 0x21#8] = .ok (⟨[], .intIb 0x21#8⟩, []) ∧
  decode false [0xF3#8, 0xA6#8] = .ok (⟨[.rep], .cmpsb⟩, []) ∧
  decode false [0x26#8, 0xF3#8, 0xA5#8] = .ok (⟨[.es, .rep], .movsw⟩, []) ∧
  decode false [0xF4#8] = .ok (⟨[], .hlt⟩, []) ∧
  decode false [0xF0#8, 0x90#8] = .ok (⟨[.lock], .nop⟩, []) ∧
  decode false [0xD9#8, 0x06#8, 0x34#8, 0x12#8] = .ok (⟨[], .esc 1#3 0#3 (.mem (.direct 0x1234#16))⟩, []) ∧
  decode false [0x0F#8] = .ok (⟨[], .invalid [0x0F#8]⟩, []) ∧
  decode false [0x8E#8, 0xC8#8] = .ok (⟨[], .invalid [0x8E#8, 0xC8#8]⟩, []) ∧
  decode false [0x60#8] = .ok (⟨[], .invalid [0x60#8]⟩, []) ∧
  decode true [0x60#8] = .ok (⟨[], .pusha⟩, []) ∧
  decode true [0x62#8, 0x07#8] = .ok (⟨[], .boundGwM .ax (.base .bx)⟩, []) ∧
  decode true [0xC8#8, 0x08#8, 0x00#8, 0x00#8] = .ok (⟨[], .enterIwIb 0x0008#16 0x00#8⟩, []) ∧
  decode true [0x6B#8, 0xC3#8, 0x0A#8] = .ok (⟨[], .imulGwEwIb .ax (.reg .bx) 0x0A#8⟩, []) ∧
  decode true [0xC1#8, 0xE0#8, 0x04#8] = .ok (⟨[], .shlEwIb (.reg .ax) 0x04#8⟩, [])

/-- Decode of encode is the instruction, with whatever follows left over: every well-formed instruction, with its
bytes of R94, for either value of ISA_186 (30_encoding.md R90 to R127). -/
def Obligations.DecodeInvertsEncode : Prop :=
  ∀ (isa186 : Bool) (d : Decoded) (rest : List Byte), d.wf isa186 = true → decode isa186 (d.bytes ++ rest) = .ok (d, rest)

/-- Any twenty bytes or more decode to a well-formed instruction of one to twenty bytes, and what is left is what
follows them: decoding never fails (30_encoding.md R90, R91, R109). -/
def Obligations.DecodeAlwaysAnswers : Prop :=
  ∀ (isa186 : Bool) (bs : List Byte), 20 ≤ bs.length →
    ∃ d, decode isa186 bs = .ok (d, bs.drop d.len) ∧ d.wf isa186 = true ∧ 1 ≤ d.len ∧ d.len ≤ 20

/-- Exactly the encodings of the list decode to Invalid, with the length given there (30_encoding.md R127): after up
to 14 bytes of R94, an opcode of the list (one byte), an opcode with a ModRM byte of the list (two bytes, nothing of a
displacement or an immediate), or fifteen bytes of R94. -/
def Obligations.InvalidEncodings : Prop :=
  (∀ isa186 bs ps raw rest, decode isa186 bs = .ok (⟨ps, .invalid raw⟩, rest) →
      invalidRaw isa186 raw = true ∧ bs = ps.map Prefix.byte ++ raw ++ rest) ∧
  (∀ isa186 (ps : List Prefix) op rest, ps.length ≤ 14 → invalidOpcode isa186 op = true →
      decode isa186 (ps.map Prefix.byte ++ op :: rest) = .ok (⟨ps, .invalid [op]⟩, rest)) ∧
  (∀ isa186 (ps : List Prefix) op modrm rest, ps.length ≤ 14 → invalidModRM isa186 op modrm = true →
      decode isa186 (ps.map Prefix.byte ++ op :: modrm :: rest) = .ok (⟨ps, .invalid [op, modrm]⟩, rest)) ∧
  (∀ isa186 (ps : List Prefix) rest, ps.length = 15 →
      decode isa186 (ps.map Prefix.byte ++ rest) = .ok (⟨[], .invalid (ps.map Prefix.byte)⟩, rest))

/-- What is decoded depends on the bytes at CS:IP, as many as are consumed, and on ISA_186 alone: two states that
agree on these decode alike, whatever their registers (30_encoding.md R91, R92). -/
def Obligations.DecodeReadsOnlyItsBytes : Prop :=
  ∀ (s t : State) (d : Decoded) (len : Nat), s.decodeNext = .ok (d, len) → t.isa186 = s.isa186 →
    (∀ k < len, t.mem.read (phys (t.seg .cs) (t.ip + BitVec.ofNat 16 k)) =
      s.mem.read (phys (s.seg .cs) (s.ip + BitVec.ofNat 16 k))) →
    t.decodeNext = .ok (d, len)

/-- That each byte of R94 is an instruction of its own whose meaning writes State.pfx is the MODEL'S CHOICE (log entry
3, DESIGN CHOICE): by 30_encoding.md R90 the segment override, the repeat and LOCK are fields of the decoded
instruction. Of that choice it states: each byte as an instruction of its own row records itself and changes nothing
else. And a run of them leaves the last segment override, the last repeat, and whether LOCK was seen, which are the
fields that R94 to R96, 45_system.md R361 and R362 give the decoded instruction. -/
def Obligations.PrefixBytesRecorded : Prop :=
  (∀ s, ∃ t, exec .segEs s = .next t ∧ t.pfx = { s.pfx with seg := some .es } ∧ Changes s t [] [] [.pfx]) ∧
  (∀ s, ∃ t, exec .segCs s = .next t ∧ t.pfx = { s.pfx with seg := some .cs } ∧ Changes s t [] [] [.pfx]) ∧
  (∀ s, ∃ t, exec .segSs s = .next t ∧ t.pfx = { s.pfx with seg := some .ss } ∧ Changes s t [] [] [.pfx]) ∧
  (∀ s, ∃ t, exec .segDs s = .next t ∧ t.pfx = { s.pfx with seg := some .ds } ∧ Changes s t [] [] [.pfx]) ∧
  (∀ s, ∃ t, exec .lock s = .next t ∧ t.pfx = { s.pfx with lock := true } ∧ Changes s t [] [] [.pfx]) ∧
  (∀ s, ∃ t, exec .repne s = .next t ∧ t.pfx = { s.pfx with rep := some .repne } ∧ Changes s t [] [] [.pfx]) ∧
  (∀ s, ∃ t, exec .rep s = .next t ∧ t.pfx = { s.pfx with rep := some .rep } ∧ Changes s t [] [] [.pfx]) ∧
  (∀ s ps, s.pfx = Pfx.none → ∃ t, execPrefixes ps s = .next t ∧
    t.pfx.seg = (ps.filterMap Prefix.segment).getLast? ∧ t.pfx.rep = (ps.filterMap Prefix.repeats).getLast? ∧
    (t.pfx.lock = true ↔ .lock ∈ ps) ∧ Changes s t [] [] [.pfx])

/-- When the bytes at CS:IP decode to an instruction, a step of a machine that is not halted advances IP by its
length, records its bytes of R94, executes it in that state, and forgets those bytes (00_scope.md R4, 10_state.md
R44). -/
def Obligations.StepRunsDecodedInstruction : Prop :=
  ∀ (s : State) (d : Decoded) (rest : List Byte), s.halted = false → decode s.isa186 s.fetch = .ok (d, rest) →
    step s = thenDo (execPrefixes d.prefixes ((s.setPfx Pfx.none).setIp (s.ip + BitVec.ofNat 16 d.len))) fun s1 =>
      thenDo (exec d.op s1) fun s2 => .next (s2.setPfx Pfx.none)

/-- A step has one of two outcomes (00_scope.md R11): no step when the machine is halted, else a next state; decoding
never fails. That a halted machine answers a fault by that name is the model's (log entry 8). -/
def Obligations.StepStopsOnlyWhenHalted : Prop :=
  (∀ s, s.halted = true → step s = .fault .halted) ∧ (∀ s, s.halted = false → ∃ t, step s = .next t)

/-- The state after reset (10_state.md R46): every register, segment register, IP, flag, VM, handler bit and halted is
0, and the FLAGS image is F002H; memory is not changed by reset. -/
def Obligations.ResetState : Prop :=
  (∀ r, State.reset.reg16 r = 0#16) ∧ (∀ r, State.reset.seg r = 0#16) ∧ State.reset.ip = 0#16 ∧
    State.reset.flags.image = 0xF002#16 ∧ State.reset.vm = false ∧ State.reset.handler = 0#256 ∧
    State.reset.halted = false ∧ ∀ s : State, s.hostReset.mem = s.mem

/-- The invariant holds at reset, and reset by the host gives it back (R450) whatever the state was, if memory is well
formed. -/
def Obligations.ResetMeetsInv : Prop :=
  State.reset.Inv ∧ ∀ s : State, s.mem.wf = true → s.hostReset.Inv

/-- THE INVARIANT: every step keeps memory in its canonical form, VM 0, and no byte of R94 remembered (20_memory.md
R61, 10_state.md R32, R44), whatever the host answers. -/
def Obligations.StepKeepsInv : Prop :=
  ∀ s t, s.Inv → step s = .next t → t.Inv

/-- No step changes ISA_186 (46_ext186.md R380) or VM (10_state.md R32), whatever the host answers, from any state. -/
def Obligations.StepKeepsParameters : Prop :=
  ∀ s t, step s = .next t → t.isa186 = s.isa186 ∧ t.vm = s.vm

/-- With no host handler registered, no instruction but HLT changes halted, none clears it, and none changes the
handler table (10_state.md R42, R43, 45_system.md R358). -/
def Obligations.OnlyHltHalts : Prop :=
  ∀ (i : Instr) (s t : State), s.handler = 0#256 → exec i s = .next t →
    (t.halted = true ↔ s.halted = true ∨ i = .hlt) ∧ t.handler = 0#256

/-- With no host handler registered (10_state.md R33, R39): DF is written only by CLD, STD, POPF and IRET; IF only by
CLI, STI, POPF, IRET, and TF only by POPF, IRET, but that an interrupt entry clears both. -/
def Obligations.ControlFlagWriters : Prop :=
  ∀ (i : Instr) (s t : State), s.handler = 0#256 → exec i s = .next t → i ≠ .popf → i ≠ .iret →
    (i ≠ .cld → i ≠ .std → t.flags.DF = s.flags.DF) ∧
    (i ≠ .cli → i ≠ .sti → t.flags.IF = s.flags.IF ∨ i.mayRaise = true ∧ t.flags.IF = false) ∧
    (t.flags.TF = s.flags.TF ∨ i.mayRaise = true ∧ t.flags.TF = false)

/-- With no host handler registered (10_state.md R27): ES, SS and DS are written only by their MOV and POP and by LES
and LDS; CS only by the far transfers, IRET and interrupt entry. -/
def Obligations.SegmentRegisterWriters : Prop :=
  ∀ (i : Instr) (s t : State), s.handler = 0#256 → exec i s = .next t →
    (t.seg .es = s.seg .es ∨ i = .popEs ∨ (∃ e, i = .movEsEw e) ∨ ∃ g m, i = .lesGwM g m) ∧
    (t.seg .ss = s.seg .ss ∨ i = .popSs ∨ ∃ e, i = .movSsEw e) ∧
    (t.seg .ds = s.seg .ds ∨ i = .popDs ∨ (∃ e, i = .movDsEw e) ∨ ∃ g m, i = .ldsGwM g m) ∧
    (t.seg .cs = s.seg .cs ∨ i.loadsCs = true ∨ i.mayRaise = true)

/-- An instruction that does not transfer control and cannot raise leaves IP at the next instruction, modulo 2^16, in
the same code segment (10_state.md R29). -/
def Obligations.OtherInstructionsAdvance : Prop :=
  ∀ (s t : State) (d : Decoded) (rest : List Byte), s.halted = false → decode s.isa186 s.fetch = .ok (d, rest) →
    d.op.jumpsNear = false → d.op.loadsCs = false → d.op.mayRaise = false → step s = .next t →
    t.ip.toNat = (s.ip.toNat + d.len) % 0x10000 ∧ t.seg .cs = s.seg .cs

/-- LOCK changes what no instruction does, and a repeat what only a string instruction does (44_string.md R332,
45_system.md R361): with no host handler registered, an instruction run under other such bytes ends in the same state,
those bytes apart. -/
def Obligations.RepeatAndLockIgnored : Prop :=
  ∀ (i : Instr) (s t : State) (q : Pfx), s.handler = 0#256 → i.isPrefix = false → q.seg = s.pfx.seg →
    (i.isString = false ∨ q.rep = s.pfx.rep) → exec i s = .next t → exec i (s.setPfx q) = .next (t.setPfx q)

/-- The 8-bit registers are the halves of AX, CX, DX and BX (10_state.md R22): the word is the high half times 256
plus the low half, and a write of one half keeps every other half and every other register; a write of the word
replaces both halves; the numbers 0 to 7 of the 8-bit registers. -/
def Obligations.ByteRegisterAliasing : Prop :=
  (∀ s : State, (s.reg16 .ax).toNat = (s.reg8 .ah).toNat * 256 + (s.reg8 .al).toNat ∧
      (s.reg16 .cx).toNat = (s.reg8 .ch).toNat * 256 + (s.reg8 .cl).toNat ∧
      (s.reg16 .dx).toNat = (s.reg8 .dh).toNat * 256 + (s.reg8 .dl).toNat ∧
      (s.reg16 .bx).toNat = (s.reg8 .bh).toNat * 256 + (s.reg8 .bl).toNat) ∧
  (∀ (s : State) r v, Wrote8 s (s.setReg8 r v) (.reg r) v []) ∧
  (∀ (s : State) r v, (s.setReg16 r v).reg16 r = v ∧ Changes s (s.setReg16 r v) [r] [] []) ∧
  ((List.range 8).map fun k => Reg8.ofBits (BitVec.ofNat 3 k)) = [.al, .cl, .dl, .bl, .ah, .ch, .dh, .bh]

/-- The FLAGS image (10_state.md R31): each flag at its bit over F002H; writing an image sets the nine flags from
their bits and ignores the others; an image written and read back is itself but for the fixed bits. -/
def Obligations.FlagsImageBits : Prop :=
  (∀ f : Flags, f.image.toNat = 0xF002 + f.CF.toNat + 4 * f.PF.toNat + 16 * f.AF.toNat + 64 * f.ZF.toNat + 128 * f.SF.toNat +
      256 * f.TF.toNat + 512 * f.IF.toNat + 1024 * f.DF.toNat + 2048 * f.OF.toNat) ∧
  (∀ v : Word, FlagsFrom v (Flags.ofImage v)) ∧ (∀ f : Flags, Flags.ofImage f.image = f) ∧
  (∀ v : Word, (Flags.ofImage v).image = (v &&& 0x0FD5#16) ||| 0xF002#16)

/-- The translation (20_memory.md R60, R76): 16 times the segment plus the offset, less 2^20 exactly when the sum is
2^20 or more; two pairs name one byte exactly when their sums agree modulo 2^20. -/
def Obligations.PhysicalAddresses : Prop :=
  (∀ seg off : Word, phys seg off < 0x100000 ∧
      (seg.toNat * 16 + off.toNat < 0x100000 → phys seg off = seg.toNat * 16 + off.toNat) ∧
      (0x100000 ≤ seg.toNat * 16 + off.toNat → phys seg off + 0x100000 = seg.toNat * 16 + off.toNat)) ∧
  (∀ seg off seg' off' : Word, phys seg off = phys seg' off' ↔
      (seg.toNat * 16 + off.toNat) % 0x100000 = (seg'.toNat * 16 + off'.toNat) % 0x100000)

/-- Memory (00_scope.md R5, 20_memory.md R64, R65): each address reads the last byte written to it; a word is its low
byte at the offset and its high byte at the next offset modulo 2^16, when read and when written; no other byte
changes; the canonical form stays. -/
def Obligations.MemoryReadsLastWrite : Prop :=
  (∀ (s : State) (seg off : Word), s.read8 seg off = s.mem.read (phys seg off)) ∧
  (∀ (s : State) (seg off : Word) (b : Byte), (s.write8 seg off b).read8 seg off = b ∧
      Changes s (s.write8 seg off b) [] [phys seg off] []) ∧
  (∀ (m : Memory) (p q : Nat) (b : Byte), (m.write p b).read q = if q = p then b else m.read q) ∧
  (∀ (s : State) (seg off : Word), (s.read16 seg off).toNat =
      (s.mem.read (phys seg off)).toNat + 256 * (s.mem.read (phys seg (BitVec.ofNat 16 (off.toNat + 1)))).toNat) ∧
  (∀ (s : State) (seg off v : Word), (s.write16 seg off v).HoldsWord seg off v ∧
      Changes s (s.write16 seg off v) [] (wordBytes seg off) []) ∧
  (∀ (s : State) (seg off v : Word), s.mem.wf = true → (s.write16 seg off v).mem.wf = true)

/-- The 24 memory forms (30_encoding.md R102, R103, R96): base plus index plus displacement modulo 2^16, a byte
displacement signed; the default segment SS with BP, else DS, unless an override names another. -/
def Obligations.EffectiveAddresses : Prop :=
  (∀ (s : State) (b : EABase),
      s.ea (.base b) = BitVec.ofNat 16 (s.baseSum b) ∧
      (∀ d, s.ea (.direct d) = d) ∧
      (∀ d : Byte, s.ea (.disp8 b d) = BitVec.ofInt 16 (s.baseSum b + d.toInt)) ∧
      (∀ d : Word, s.ea (.disp16 b d) = BitVec.ofNat 16 (s.baseSum b + d.toNat))) ∧
  (∀ (s : State) (m : MemForm) (r : SReg), s.pfx.seg = some r → s.memSeg m = s.seg r) ∧
  (∀ (s : State) (b : EABase) (d : Byte) (w : Word), s.pfx.seg = none →
      s.memSeg (.direct w) = s.seg .ds ∧
      s.memSeg (.base b) = s.seg (if b.usesBp then .ss else .ds) ∧
      s.memSeg (.disp8 b d) = s.seg (if b.usesBp then .ss else .ds) ∧
      s.memSeg (.disp16 b w) = s.seg (if b.usesBp then .ss else .ds))

/-- The host's operations (70_reset_and_hazards.md R450, R452, 60_exceptions.md R416): reset sets the block's state
and keeps memory and ISA_186; execute sets CS:IP and the three data segments and clears halted only; register writes
the four bytes of its vector and its handler bit only. -/
def Obligations.HostOperations : Prop :=
  (∀ s : State, (∀ r, s.hostReset.reg16 r = 0#16) ∧ (∀ r, s.hostReset.seg r = 0#16) ∧ s.hostReset.ip = 0#16 ∧
      s.hostReset.flags.image = 0xF002#16 ∧ s.hostReset.vm = false ∧ s.hostReset.handler = 0#256 ∧
      s.hostReset.halted = false ∧ s.hostReset.mem = s.mem ∧ s.hostReset.isa186 = s.isa186) ∧
  (∀ (s : State) c, (s.startContext c).seg .cs = c.codeSegment ∧ (s.startContext c).ip = c.instructionPointer ∧
      (∀ r, r ≠ .cs → (s.startContext c).seg r = c.dataSegment) ∧ (s.startContext c).halted = false ∧
      Changes s (s.startContext c) [] [] [.es, .cs, .ss, .ds, .ip, .halted]) ∧
  (∀ (s : State) (v : Byte) seg off h, (s.register v seg off h).mem.read (4 * v.toNat) = Word.lo off ∧
      (s.register v seg off h).mem.read (4 * v.toNat + 1) = Word.hi off ∧
      (s.register v seg off h).mem.read (4 * v.toNat + 2) = Word.lo seg ∧
      (s.register v seg off h).mem.read (4 * v.toNat + 3) = Word.hi seg ∧
      (∀ n : Byte, (s.register v seg off h).hasHandler n = if n = v then h else s.hasHandler n) ∧
      Changes s (s.register v seg off h) []
        [4 * v.toNat, 4 * v.toNat + 1, 4 * v.toNat + 2, 4 * v.toNat + 3] [.handler])

/-- ADD and ADC (40_arithmetic.md R140 to R142, 10_state.md R34): in every form the destination holds the exact sum
modulo 2^w, the flags are those of the three-input sum, and nothing else changes. -/
def Obligations.AddForms : Prop :=
  (∀ s e g, ∃ t, exec (.addEbGb e g) s = .next t ∧ Added8 s t e (s.readEb e) (s.reg8 g) false) ∧
  (∀ s e g, ∃ t, exec (.addEwGw e g) s = .next t ∧ Added16 s t e (s.readEw e) (s.reg16 g) false) ∧
  (∀ s g e, ∃ t, exec (.addGbEb g e) s = .next t ∧ Added8 s t (.reg g) (s.reg8 g) (s.readEb e) false) ∧
  (∀ s g e, ∃ t, exec (.addGwEw g e) s = .next t ∧ Added16 s t (.reg g) (s.reg16 g) (s.readEw e) false) ∧
  (∀ s b, ∃ t, exec (.addAlIb b) s = .next t ∧ Added8 s t (.reg .al) (s.reg8 .al) b false) ∧
  (∀ s w, ∃ t, exec (.addAxIw w) s = .next t ∧ Added16 s t (.reg .ax) (s.reg16 .ax) w false) ∧
  (∀ s e b, ∃ t, exec (.addEbIb e b) s = .next t ∧ Added8 s t e (s.readEb e) b false) ∧
  (∀ s e w, ∃ t, exec (.addEwIw e w) s = .next t ∧ Added16 s t e (s.readEw e) w false) ∧
  (∀ s e b, ∃ t, exec (.addEwIb e b) s = .next t ∧ Added16 s t e (s.readEw e) (b.signExtend 16) false) ∧
  (∀ s e g, ∃ t, exec (.adcEbGb e g) s = .next t ∧ Added8 s t e (s.readEb e) (s.reg8 g) s.flags.CF) ∧
  (∀ s e g, ∃ t, exec (.adcEwGw e g) s = .next t ∧ Added16 s t e (s.readEw e) (s.reg16 g) s.flags.CF) ∧
  (∀ s g e, ∃ t, exec (.adcGbEb g e) s = .next t ∧ Added8 s t (.reg g) (s.reg8 g) (s.readEb e) s.flags.CF) ∧
  (∀ s g e, ∃ t, exec (.adcGwEw g e) s = .next t ∧ Added16 s t (.reg g) (s.reg16 g) (s.readEw e) s.flags.CF) ∧
  (∀ s b, ∃ t, exec (.adcAlIb b) s = .next t ∧ Added8 s t (.reg .al) (s.reg8 .al) b s.flags.CF) ∧
  (∀ s w, ∃ t, exec (.adcAxIw w) s = .next t ∧ Added16 s t (.reg .ax) (s.reg16 .ax) w s.flags.CF) ∧
  (∀ s e b, ∃ t, exec (.adcEbIb e b) s = .next t ∧ Added8 s t e (s.readEb e) b s.flags.CF) ∧
  (∀ s e w, ∃ t, exec (.adcEwIw e w) s = .next t ∧ Added16 s t e (s.readEw e) w s.flags.CF) ∧
  (∀ s e b, ∃ t, exec (.adcEwIb e b) s = .next t ∧ Added16 s t e (s.readEw e) (b.signExtend 16) s.flags.CF)

/-- SUB and SBB (R143, R144, 10_state.md R35): the exact difference modulo 2^w, the flags of a subtraction with the
borrow-in, and nothing else changes. -/
def Obligations.SubForms : Prop :=
  (∀ s e g, ∃ t, exec (.subEbGb e g) s = .next t ∧ Subtracted8 s t e (s.readEb e) (s.reg8 g) false) ∧
  (∀ s e g, ∃ t, exec (.subEwGw e g) s = .next t ∧ Subtracted16 s t e (s.readEw e) (s.reg16 g) false) ∧
  (∀ s g e, ∃ t, exec (.subGbEb g e) s = .next t ∧ Subtracted8 s t (.reg g) (s.reg8 g) (s.readEb e) false) ∧
  (∀ s g e, ∃ t, exec (.subGwEw g e) s = .next t ∧ Subtracted16 s t (.reg g) (s.reg16 g) (s.readEw e) false) ∧
  (∀ s b, ∃ t, exec (.subAlIb b) s = .next t ∧ Subtracted8 s t (.reg .al) (s.reg8 .al) b false) ∧
  (∀ s w, ∃ t, exec (.subAxIw w) s = .next t ∧ Subtracted16 s t (.reg .ax) (s.reg16 .ax) w false) ∧
  (∀ s e b, ∃ t, exec (.subEbIb e b) s = .next t ∧ Subtracted8 s t e (s.readEb e) b false) ∧
  (∀ s e w, ∃ t, exec (.subEwIw e w) s = .next t ∧ Subtracted16 s t e (s.readEw e) w false) ∧
  (∀ s e b, ∃ t, exec (.subEwIb e b) s = .next t ∧ Subtracted16 s t e (s.readEw e) (b.signExtend 16) false) ∧
  (∀ s e g, ∃ t, exec (.sbbEbGb e g) s = .next t ∧ Subtracted8 s t e (s.readEb e) (s.reg8 g) s.flags.CF) ∧
  (∀ s e g, ∃ t, exec (.sbbEwGw e g) s = .next t ∧ Subtracted16 s t e (s.readEw e) (s.reg16 g) s.flags.CF) ∧
  (∀ s g e, ∃ t, exec (.sbbGbEb g e) s = .next t ∧ Subtracted8 s t (.reg g) (s.reg8 g) (s.readEb e) s.flags.CF) ∧
  (∀ s g e, ∃ t, exec (.sbbGwEw g e) s = .next t ∧ Subtracted16 s t (.reg g) (s.reg16 g) (s.readEw e) s.flags.CF) ∧
  (∀ s b, ∃ t, exec (.sbbAlIb b) s = .next t ∧ Subtracted8 s t (.reg .al) (s.reg8 .al) b s.flags.CF) ∧
  (∀ s w, ∃ t, exec (.sbbAxIw w) s = .next t ∧ Subtracted16 s t (.reg .ax) (s.reg16 .ax) w s.flags.CF) ∧
  (∀ s e b, ∃ t, exec (.sbbEbIb e b) s = .next t ∧ Subtracted8 s t e (s.readEb e) b s.flags.CF) ∧
  (∀ s e w, ∃ t, exec (.sbbEwIw e w) s = .next t ∧ Subtracted16 s t e (s.readEw e) w s.flags.CF) ∧
  (∀ s e b, ∃ t, exec (.sbbEwIb e b) s = .next t ∧ Subtracted16 s t e (s.readEw e) (b.signExtend 16) s.flags.CF)

/-- CMP (R145) in every form writes the flags of SUB and TEST (41_logic_shift.md R193) those of AND; nothing else
changes: no operand is written. -/
def Obligations.CompareAndTestForms : Prop :=
  (∀ s e g, ∃ t, exec (.cmpEbGb e g) s = .next t ∧ Compared s t (s.readEb e) (s.reg8 g)) ∧
  (∀ s e g, ∃ t, exec (.cmpEwGw e g) s = .next t ∧ Compared s t (s.readEw e) (s.reg16 g)) ∧
  (∀ s g e, ∃ t, exec (.cmpGbEb g e) s = .next t ∧ Compared s t (s.reg8 g) (s.readEb e)) ∧
  (∀ s g e, ∃ t, exec (.cmpGwEw g e) s = .next t ∧ Compared s t (s.reg16 g) (s.readEw e)) ∧
  (∀ s b, ∃ t, exec (.cmpAlIb b) s = .next t ∧ Compared s t (s.reg8 .al) b) ∧
  (∀ s w, ∃ t, exec (.cmpAxIw w) s = .next t ∧ Compared s t (s.reg16 .ax) w) ∧
  (∀ s e b, ∃ t, exec (.cmpEbIb e b) s = .next t ∧ Compared s t (s.readEb e) b) ∧
  (∀ s e w, ∃ t, exec (.cmpEwIw e w) s = .next t ∧ Compared s t (s.readEw e) w) ∧
  (∀ s e b, ∃ t, exec (.cmpEwIb e b) s = .next t ∧ Compared s t (s.readEw e) (b.signExtend 16)) ∧
  (∀ s e g, ∃ t, exec (.testEbGb e g) s = .next t ∧ Changes s t [] [] [.flags] ∧
    LogicSets (s.readEb e &&& s.reg8 g) s.flags t.flags) ∧
  (∀ s e g, ∃ t, exec (.testEwGw e g) s = .next t ∧ Changes s t [] [] [.flags] ∧
    LogicSets (s.readEw e &&& s.reg16 g) s.flags t.flags) ∧
  (∀ s b, ∃ t, exec (.testAlIb b) s = .next t ∧ Changes s t [] [] [.flags] ∧
    LogicSets (s.reg8 .al &&& b) s.flags t.flags) ∧
  (∀ s w, ∃ t, exec (.testAxIw w) s = .next t ∧ Changes s t [] [] [.flags] ∧
    LogicSets (s.reg16 .ax &&& w) s.flags t.flags) ∧
  (∀ s e b, ∃ t, exec (.testEbIb e b) s = .next t ∧ Changes s t [] [] [.flags] ∧
    LogicSets (s.readEb e &&& b) s.flags t.flags) ∧
  (∀ s e w, ∃ t, exec (.testEwIw e w) s = .next t ∧ Changes s t [] [] [.flags] ∧
    LogicSets (s.readEw e &&& w) s.flags t.flags)

/-- AND, OR and XOR (41_logic_shift.md R190 to R192, 10_state.md R36): the bitwise result in the destination, CF, OF
and AF 0, SF, ZF and PF of the result, and nothing else changes. -/
def Obligations.LogicalForms : Prop :=
  (∀ s e g, ∃ t, exec (.andEbGb e g) s = .next t ∧ Logical8 s t e ((s.readEb e) &&& (s.reg8 g))) ∧
  (∀ s e g, ∃ t, exec (.andEwGw e g) s = .next t ∧ Logical16 s t e ((s.readEw e) &&& (s.reg16 g))) ∧
  (∀ s g e, ∃ t, exec (.andGbEb g e) s = .next t ∧ Logical8 s t (.reg g) ((s.reg8 g) &&& (s.readEb e))) ∧
  (∀ s g e, ∃ t, exec (.andGwEw g e) s = .next t ∧ Logical16 s t (.reg g) ((s.reg16 g) &&& (s.readEw e))) ∧
  (∀ s b, ∃ t, exec (.andAlIb b) s = .next t ∧ Logical8 s t (.reg .al) ((s.reg8 .al) &&& b)) ∧
  (∀ s w, ∃ t, exec (.andAxIw w) s = .next t ∧ Logical16 s t (.reg .ax) ((s.reg16 .ax) &&& w)) ∧
  (∀ s e b, ∃ t, exec (.andEbIb e b) s = .next t ∧ Logical8 s t e ((s.readEb e) &&& b)) ∧
  (∀ s e w, ∃ t, exec (.andEwIw e w) s = .next t ∧ Logical16 s t e ((s.readEw e) &&& w)) ∧
  (∀ s e b, ∃ t, exec (.andEwIb e b) s = .next t ∧ Logical16 s t e ((s.readEw e) &&& (b.signExtend 16))) ∧
  (∀ s e g, ∃ t, exec (.orEbGb e g) s = .next t ∧ Logical8 s t e ((s.readEb e) ||| (s.reg8 g))) ∧
  (∀ s e g, ∃ t, exec (.orEwGw e g) s = .next t ∧ Logical16 s t e ((s.readEw e) ||| (s.reg16 g))) ∧
  (∀ s g e, ∃ t, exec (.orGbEb g e) s = .next t ∧ Logical8 s t (.reg g) ((s.reg8 g) ||| (s.readEb e))) ∧
  (∀ s g e, ∃ t, exec (.orGwEw g e) s = .next t ∧ Logical16 s t (.reg g) ((s.reg16 g) ||| (s.readEw e))) ∧
  (∀ s b, ∃ t, exec (.orAlIb b) s = .next t ∧ Logical8 s t (.reg .al) ((s.reg8 .al) ||| b)) ∧
  (∀ s w, ∃ t, exec (.orAxIw w) s = .next t ∧ Logical16 s t (.reg .ax) ((s.reg16 .ax) ||| w)) ∧
  (∀ s e b, ∃ t, exec (.orEbIb e b) s = .next t ∧ Logical8 s t e ((s.readEb e) ||| b)) ∧
  (∀ s e w, ∃ t, exec (.orEwIw e w) s = .next t ∧ Logical16 s t e ((s.readEw e) ||| w)) ∧
  (∀ s e b, ∃ t, exec (.orEwIb e b) s = .next t ∧ Logical16 s t e ((s.readEw e) ||| (b.signExtend 16))) ∧
  (∀ s e g, ∃ t, exec (.xorEbGb e g) s = .next t ∧ Logical8 s t e ((s.readEb e) ^^^ (s.reg8 g))) ∧
  (∀ s e g, ∃ t, exec (.xorEwGw e g) s = .next t ∧ Logical16 s t e ((s.readEw e) ^^^ (s.reg16 g))) ∧
  (∀ s g e, ∃ t, exec (.xorGbEb g e) s = .next t ∧ Logical8 s t (.reg g) ((s.reg8 g) ^^^ (s.readEb e))) ∧
  (∀ s g e, ∃ t, exec (.xorGwEw g e) s = .next t ∧ Logical16 s t (.reg g) ((s.reg16 g) ^^^ (s.readEw e))) ∧
  (∀ s b, ∃ t, exec (.xorAlIb b) s = .next t ∧ Logical8 s t (.reg .al) ((s.reg8 .al) ^^^ b)) ∧
  (∀ s w, ∃ t, exec (.xorAxIw w) s = .next t ∧ Logical16 s t (.reg .ax) ((s.reg16 .ax) ^^^ w)) ∧
  (∀ s e b, ∃ t, exec (.xorEbIb e b) s = .next t ∧ Logical8 s t e ((s.readEb e) ^^^ b)) ∧
  (∀ s e w, ∃ t, exec (.xorEwIw e w) s = .next t ∧ Logical16 s t e ((s.readEw e) ^^^ w)) ∧
  (∀ s e b, ∃ t, exec (.xorEwIb e b) s = .next t ∧ Logical16 s t e ((s.readEw e) ^^^ (b.signExtend 16)))

/-- INC and DEC (R148, R149): the operand plus or minus 1 modulo 2^w, the flags of that addition or subtraction but
for CF, which is kept, and nothing else changes. -/
def Obligations.IncrementDecrementForms : Prop :=
  (∀ s r, ∃ t h, exec (.incR16 r) s = .next t ∧ Wrote16 s t (.reg r) (BitVec.ofNat 16 ((s.reg16 r).toNat + 1)) [.flags] ∧
    AddSets (s.reg16 r) 1#16 false (BitVec.ofNat 16 ((s.reg16 r).toNat + 1)) s.flags h ∧ CarryKept s.flags t.flags h) ∧
  (∀ s e, ∃ t h, exec (.incEb e) s = .next t ∧ Wrote8 s t e (BitVec.ofNat 8 ((s.readEb e).toNat + 1)) [.flags] ∧
    AddSets (s.readEb e) 1#8 false (BitVec.ofNat 8 ((s.readEb e).toNat + 1)) s.flags h ∧ CarryKept s.flags t.flags h) ∧
  (∀ s e, ∃ t h, exec (.incEw e) s = .next t ∧ Wrote16 s t e (BitVec.ofNat 16 ((s.readEw e).toNat + 1)) [.flags] ∧
    AddSets (s.readEw e) 1#16 false (BitVec.ofNat 16 ((s.readEw e).toNat + 1)) s.flags h ∧ CarryKept s.flags t.flags h) ∧
  (∀ s r, ∃ t h, exec (.decR16 r) s = .next t ∧ Wrote16 s t (.reg r) (difference (s.reg16 r) 1#16 false) [.flags] ∧
    SubSets (s.reg16 r) 1#16 false (difference (s.reg16 r) 1#16 false) s.flags h ∧ CarryKept s.flags t.flags h) ∧
  (∀ s e, ∃ t h, exec (.decEb e) s = .next t ∧ Wrote8 s t e (difference (s.readEb e) 1#8 false) [.flags] ∧
    SubSets (s.readEb e) 1#8 false (difference (s.readEb e) 1#8 false) s.flags h ∧ CarryKept s.flags t.flags h) ∧
  (∀ s e, ∃ t h, exec (.decEw e) s = .next t ∧ Wrote16 s t e (difference (s.readEw e) 1#16 false) [.flags] ∧
    SubSets (s.readEw e) 1#16 false (difference (s.readEw e) 1#16 false) s.flags h ∧ CarryKept s.flags t.flags h)

/-- NEG (R150) is the subtraction of the operand from 0, with its flags; NOT (41_logic_shift.md R194) inverts every
bit and changes no flag. Nothing else changes. -/
def Obligations.NegateAndComplement : Prop :=
  (∀ s e, ∃ t, exec (.negEb e) s = .next t ∧ Subtracted8 s t e 0#8 (s.readEb e) false) ∧
  (∀ s e, ∃ t, exec (.negEw e) s = .next t ∧ Subtracted16 s t e 0#16 (s.readEw e) false) ∧
  (∀ s e, ∃ t, exec (.notEb e) s = .next t ∧ Wrote8 s t e (BitVec.ofNat 8 (0xFF - (s.readEb e).toNat)) []) ∧
  (∀ s e, ∃ t, exec (.notEw e) s = .next t ∧ Wrote16 s t e (BitVec.ofNat 16 (0xFFFF - (s.readEw e).toNat)) [])

/-- MUL, IMUL and IMUL with an immediate (R152, R153, 46_ext186.md R386): the exact product in AX, in DX:AX, or modulo
2^16 in a register; CF and OF both say that it does not fit the narrow width. SF, ZF, AF and PF are undefined (log
entry 4) and not mentioned. -/
def Obligations.MultiplyForms : Prop :=
  (∀ s e, ∃ t, exec (.mulEb e) s = .next t ∧ Changes s t [.ax] [] [.flags] ∧ ControlKept s.flags t.flags ∧
    (t.reg16 .ax).toNat = (s.reg8 .al).toNat * (s.readEb e).toNat ∧
    (t.flags.CF = true ↔ 0xFF < (s.reg8 .al).toNat * (s.readEb e).toNat) ∧ t.flags.OF = t.flags.CF) ∧
  (∀ s e, ∃ t, exec (.mulEw e) s = .next t ∧ Changes s t [.ax, .dx] [] [.flags] ∧ ControlKept s.flags t.flags ∧
    (t.reg16 .dx).toNat * 0x10000 + (t.reg16 .ax).toNat = (s.reg16 .ax).toNat * (s.readEw e).toNat ∧
    (t.flags.CF = true ↔ 0xFFFF < (s.reg16 .ax).toNat * (s.readEw e).toNat) ∧ t.flags.OF = t.flags.CF) ∧
  (∀ s e, ∃ t, exec (.imulEb e) s = .next t ∧ Changes s t [.ax] [] [.flags] ∧ ControlKept s.flags t.flags ∧
    (t.reg16 .ax).toInt = (s.reg8 .al).toInt * (s.readEb e).toInt ∧
    (t.flags.CF = true ↔ (s.reg8 .al).toInt * (s.readEb e).toInt < -128 ∨ 127 < (s.reg8 .al).toInt * (s.readEb e).toInt) ∧
    t.flags.OF = t.flags.CF) ∧
  (∀ s e, ∃ t, exec (.imulEw e) s = .next t ∧ Changes s t [.ax, .dx] [] [.flags] ∧ ControlKept s.flags t.flags ∧
    (t.reg16 .dx).toInt * 0x10000 + (t.reg16 .ax).toNat = (s.reg16 .ax).toInt * (s.readEw e).toInt ∧
    (t.flags.CF = true ↔
      (s.reg16 .ax).toInt * (s.readEw e).toInt < -32768 ∨ 32767 < (s.reg16 .ax).toInt * (s.readEw e).toInt) ∧
    t.flags.OF = t.flags.CF) ∧
  (∀ s g e w, ∃ t, exec (.imulGwEwIw g e w) s = .next t ∧ Changes s t [g] [] [.flags] ∧ ControlKept s.flags t.flags ∧
    t.reg16 g = BitVec.ofInt 16 ((s.readEw e).toInt * w.toInt) ∧
    (t.flags.CF = true ↔ (s.readEw e).toInt * w.toInt < -32768 ∨ 32767 < (s.readEw e).toInt * w.toInt) ∧
    t.flags.OF = t.flags.CF) ∧
  (∀ s g e b, ∃ t, exec (.imulGwEwIb g e b) s = .next t ∧ Changes s t [g] [] [.flags] ∧ ControlKept s.flags t.flags ∧
    t.reg16 g = BitVec.ofInt 16 ((s.readEw e).toInt * b.toInt) ∧
    (t.flags.CF = true ↔ (s.readEw e).toInt * b.toInt < -32768 ∨ 32767 < (s.readEw e).toInt * b.toInt) ∧
    t.flags.OF = t.flags.CF)

/-- DIV (R154, 60_exceptions.md R426): quotient and remainder of the exact unsigned division; a zero divisor, or a
quotient that does not fit, raises vector 0 with no register and no flag changed before the entry. The six status
flags are otherwise undefined (log entry 4) and not mentioned. With a registered handler, what the host leaves is the
free answer of log entry 5. -/
def Obligations.UnsignedDivide : Prop :=
  (∀ s e, (s.reg16 .ax).toNat < 0x100 * (s.readEb e).toNat →
    ∃ t, exec (.divEb e) s = .next t ∧ Changes s t [.ax] [] [.flags] ∧ ControlKept s.flags t.flags ∧
      (t.reg8 .ah).toNat < (s.readEb e).toNat ∧
      (t.reg8 .al).toNat * (s.readEb e).toNat + (t.reg8 .ah).toNat = (s.reg16 .ax).toNat) ∧
  (∀ s e, (s.reg16 .dx).toNat < (s.readEw e).toNat →
    ∃ t, exec (.divEw e) s = .next t ∧ Changes s t [.ax, .dx] [] [.flags] ∧ ControlKept s.flags t.flags ∧
      (t.reg16 .dx).toNat < (s.readEw e).toNat ∧
      (t.reg16 .ax).toNat * (s.readEw e).toNat + (t.reg16 .dx).toNat =
        (s.reg16 .dx).toNat * 0x10000 + (s.reg16 .ax).toNat) ∧
  (∀ s e, 0x100 * (s.readEb e).toNat ≤ (s.reg16 .ax).toNat →
    ∃ t, exec (.divEb e) s = .next t ∧ Raised s t 0#8) ∧
  (∀ s e, (s.readEw e).toNat ≤ (s.reg16 .dx).toNat → ∃ t, exec (.divEw e) s = .next t ∧ Raised s t 0#8)

/-- IDIV (R155, 60_exceptions.md R426): the quotient truncated toward zero and the remainder with the dividend's sign;
a zero divisor, or a quotient outside the symmetric range, raises vector 0 with nothing else changed. With a
registered handler, what the host leaves is the free answer of log entry 5. -/
def Obligations.SignedDivide : Prop :=
  (∀ s e, (s.readEb e).toInt ≠ 0 → ((s.reg16 .ax).toInt.tdiv (s.readEb e).toInt).natAbs ≤ 127 →
    ∃ t, exec (.idivEb e) s = .next t ∧ Changes s t [.ax] [] [.flags] ∧ ControlKept s.flags t.flags ∧
      (t.reg8 .al).toInt = (s.reg16 .ax).toInt.tdiv (s.readEb e).toInt ∧
      (t.reg8 .ah).toInt = (s.reg16 .ax).toInt.tmod (s.readEb e).toInt) ∧
  (∀ s e, (s.readEw e).toInt ≠ 0 →
    (((s.reg16 .dx).toInt * 0x10000 + (s.reg16 .ax).toNat).tdiv (s.readEw e).toInt).natAbs ≤ 32767 →
    ∃ t, exec (.idivEw e) s = .next t ∧ Changes s t [.ax, .dx] [] [.flags] ∧ ControlKept s.flags t.flags ∧
      (t.reg16 .ax).toInt = ((s.reg16 .dx).toInt * 0x10000 + (s.reg16 .ax).toNat).tdiv (s.readEw e).toInt ∧
      (t.reg16 .dx).toInt = ((s.reg16 .dx).toInt * 0x10000 + (s.reg16 .ax).toNat).tmod (s.readEw e).toInt) ∧
  (∀ s e, (s.readEb e).toInt = 0 ∨ 127 < ((s.reg16 .ax).toInt.tdiv (s.readEb e).toInt).natAbs →
    ∃ t, exec (.idivEb e) s = .next t ∧ Raised s t 0#8) ∧
  (∀ s e, (s.readEw e).toInt = 0 ∨
      32767 < (((s.reg16 .dx).toInt * 0x10000 + (s.reg16 .ax).toNat).tdiv (s.readEw e).toInt).natAbs →
    ∃ t, exec (.idivEw e) s = .next t ∧ Raised s t 0#8)

/-- CBW (R157) makes AX the value of AL as a signed byte; CWD (R158) makes DX:AX the value of AX as a signed word. No
flag changes. Their encodings, under either value of ISA_186. -/
def Obligations.AccumulatorSignExtension : Prop :=
  EncodedBy [0x98#8] .cbw ∧
  EncodedBy [0x99#8] .cwd ∧
  (∀ s, ∃ t, exec .cbw s = .next t ∧ (t.reg16 .ax).toInt = (s.reg8 .al).toInt ∧ Changes s t [.ax] [] []) ∧
  (∀ s, ∃ t, exec .cwd s = .next t ∧ (t.reg16 .dx).toInt * 0x10000 + (t.reg16 .ax).toNat = (s.reg16 .ax).toInt ∧
    Changes s t [.dx] [] [])

/-- DAA and DAS (R160, R161): AL is adjusted by 6 when its low digit is above 9 or AF is set, and by 60H when the old
AL was above 99H or CF was set; AF and CF record the two adjustments (DAS: CF also the borrow of the first); SF, ZF
and PF are those of the new AL. AAA and AAS (R162, R163): when the low digit of AL is above 9 or AF is set, 6 is added
to or taken from AL and 1 added to or taken from AH, each modulo 2^8 by itself, and AF and CF are set, else cleared;
then AL keeps its low digit only. Undefined flags are not mentioned. -/
def Obligations.DecimalAndAsciiAdjust : Prop :=
  (∀ s, ∃ t, exec .daa s = .next t ∧
    (let low := 9 < (s.reg8 .al).toNat % 16 ∨ s.flags.AF = true
     let high := 0x99 < (s.reg8 .al).toNat ∨ s.flags.CF = true
     ∃ x y : Nat, (low → x = 6) ∧ (¬low → x = 0) ∧ (high → y = 0x60) ∧ (¬high → y = 0) ∧
       (t.reg8 .al).toNat = ((s.reg8 .al).toNat + x + y) % 256 ∧ t.reg8 .ah = s.reg8 .ah ∧
       (t.flags.AF = true ↔ low) ∧ (t.flags.CF = true ↔ high) ∧ SzpOf (t.reg8 .al) t.flags) ∧
    ControlKept s.flags t.flags ∧ Changes s t [.ax] [] [.flags]) ∧
  (∀ s, ∃ t, exec .das s = .next t ∧
    (let low := 9 < (s.reg8 .al).toNat % 16 ∨ s.flags.AF = true
     let high := 0x99 < (s.reg8 .al).toNat ∨ s.flags.CF = true
     ∃ x y : Nat, (low → x = 6) ∧ (¬low → x = 0) ∧ (high → y = 0x60) ∧ (¬high → y = 0) ∧
       (t.reg8 .al).toNat = ((s.reg8 .al).toNat + 512 - x - y) % 256 ∧ t.reg8 .ah = s.reg8 .ah ∧
       (t.flags.AF = true ↔ low) ∧ (t.flags.CF = true ↔ high ∨ (s.reg8 .al).toNat < x) ∧
       SzpOf (t.reg8 .al) t.flags) ∧
    ControlKept s.flags t.flags ∧ Changes s t [.ax] [] [.flags]) ∧
  (∀ s, ∃ t, exec .aaa s = .next t ∧
    (let low := 9 < (s.reg8 .al).toNat % 16 ∨ s.flags.AF = true
     (low → (t.reg8 .al).toNat = ((s.reg8 .al).toNat + 6) % 16 ∧ (t.reg8 .ah).toNat = ((s.reg8 .ah).toNat + 1) % 256) ∧
     (¬low → (t.reg8 .al).toNat = (s.reg8 .al).toNat % 16 ∧ t.reg8 .ah = s.reg8 .ah) ∧
     (t.flags.AF = true ↔ low) ∧ (t.flags.CF = true ↔ low)) ∧
    ControlKept s.flags t.flags ∧ Changes s t [.ax] [] [.flags]) ∧
  (∀ s, ∃ t, exec .aas s = .next t ∧
    (let low := 9 < (s.reg8 .al).toNat % 16 ∨ s.flags.AF = true
     (low → (t.reg8 .al).toNat = ((s.reg8 .al).toNat + 10) % 16 ∧
       (t.reg8 .ah).toNat = ((s.reg8 .ah).toNat + 255) % 256) ∧
     (¬low → (t.reg8 .al).toNat = (s.reg8 .al).toNat % 16 ∧ t.reg8 .ah = s.reg8 .ah) ∧
     (t.flags.AF = true ↔ low) ∧ (t.flags.CF = true ↔ low)) ∧
    ControlKept s.flags t.flags ∧ Changes s t [.ax] [] [.flags])

/-- AAM and AAD (R164, R165): AAM splits AL into quotient (AH) and remainder (AL) by its base, and raises vector 0 on
base 0 with nothing else changed; AAD gathers AH times the base plus AL into AL and clears AH. SF, ZF and PF are those
of AL; OF, AF and CF are undefined (log entry 4) and not mentioned. With a registered handler, what the host leaves is
the free answer of log entry 5. -/
def Obligations.AsciiBaseConversion : Prop :=
  (∀ s b, b.toNat ≠ 0 → ∃ t, exec (.aamIb b) s = .next t ∧
    (t.reg8 .ah).toNat * b.toNat + (t.reg8 .al).toNat = (s.reg8 .al).toNat ∧ (t.reg8 .al).toNat < b.toNat ∧
    SzpOf (t.reg8 .al) t.flags ∧ ControlKept s.flags t.flags ∧ Changes s t [.ax] [] [.flags]) ∧
  (∀ s, ∃ t, exec (.aamIb 0#8) s = .next t ∧ Raised s t 0#8) ∧
  (∀ s b, ∃ t, exec (.aadIb b) s = .next t ∧
    (t.reg8 .al).toNat = ((s.reg8 .al).toNat + (s.reg8 .ah).toNat * b.toNat) % 256 ∧ (t.reg8 .ah).toNat = 0 ∧
    SzpOf (t.reg8 .al) t.flags ∧ ControlKept s.flags t.flags ∧ Changes s t [.ax] [] [.flags])

/-- SHL, SHR and SAR by 1, by CL and by an immediate (R198 to R202, 46_ext186.md R389, R392), for every count from 0
to 255: the product or quotient by the power of two, the last bit out in CF, SF, ZF and PF of the result, OF for count
1; count 0 changes nothing; AF, and OF above 1, are undefined (log entry 4) and not mentioned. -/
def Obligations.ShiftForms : Prop :=
  (∀ s e, ∃ t, exec (.shlEb1 e) s = .next t ∧
    ShiftDone8 s t e 1 (shlBy (s.readEb e) 1)) ∧
  (∀ s e, ∃ t, exec (.shlEw1 e) s = .next t ∧
    ShiftDone16 s t e 1 (shlBy (s.readEw e) 1)) ∧
  (∀ s e, ∃ t, exec (.shlEbCl e) s = .next t ∧
    ShiftDone8 s t e (s.countOf (s.reg8 .cl)) (shlBy (s.readEb e) (s.countOf (s.reg8 .cl)))) ∧
  (∀ s e, ∃ t, exec (.shlEwCl e) s = .next t ∧
    ShiftDone16 s t e (s.countOf (s.reg8 .cl)) (shlBy (s.readEw e) (s.countOf (s.reg8 .cl)))) ∧
  (∀ s e b, ∃ t, exec (.shlEbIb e b) s = .next t ∧
    ShiftDone8 s t e (s.countOf b) (shlBy (s.readEb e) (s.countOf b))) ∧
  (∀ s e b, ∃ t, exec (.shlEwIb e b) s = .next t ∧
    ShiftDone16 s t e (s.countOf b) (shlBy (s.readEw e) (s.countOf b))) ∧
  (∀ s e, ∃ t, exec (.shrEb1 e) s = .next t ∧
    ShiftDone8 s t e 1 (shrBy (s.readEb e) 1)) ∧
  (∀ s e, ∃ t, exec (.shrEw1 e) s = .next t ∧
    ShiftDone16 s t e 1 (shrBy (s.readEw e) 1)) ∧
  (∀ s e, ∃ t, exec (.shrEbCl e) s = .next t ∧
    ShiftDone8 s t e (s.countOf (s.reg8 .cl)) (shrBy (s.readEb e) (s.countOf (s.reg8 .cl)))) ∧
  (∀ s e, ∃ t, exec (.shrEwCl e) s = .next t ∧
    ShiftDone16 s t e (s.countOf (s.reg8 .cl)) (shrBy (s.readEw e) (s.countOf (s.reg8 .cl)))) ∧
  (∀ s e b, ∃ t, exec (.shrEbIb e b) s = .next t ∧
    ShiftDone8 s t e (s.countOf b) (shrBy (s.readEb e) (s.countOf b))) ∧
  (∀ s e b, ∃ t, exec (.shrEwIb e b) s = .next t ∧
    ShiftDone16 s t e (s.countOf b) (shrBy (s.readEw e) (s.countOf b))) ∧
  (∀ s e, ∃ t, exec (.sarEb1 e) s = .next t ∧
    ShiftDone8 s t e 1 (sarBy (s.readEb e) 1)) ∧
  (∀ s e, ∃ t, exec (.sarEw1 e) s = .next t ∧
    ShiftDone16 s t e 1 (sarBy (s.readEw e) 1)) ∧
  (∀ s e, ∃ t, exec (.sarEbCl e) s = .next t ∧
    ShiftDone8 s t e (s.countOf (s.reg8 .cl)) (sarBy (s.readEb e) (s.countOf (s.reg8 .cl)))) ∧
  (∀ s e, ∃ t, exec (.sarEwCl e) s = .next t ∧
    ShiftDone16 s t e (s.countOf (s.reg8 .cl)) (sarBy (s.readEw e) (s.countOf (s.reg8 .cl)))) ∧
  (∀ s e b, ∃ t, exec (.sarEbIb e b) s = .next t ∧
    ShiftDone8 s t e (s.countOf b) (sarBy (s.readEb e) (s.countOf b))) ∧
  (∀ s e b, ∃ t, exec (.sarEwIb e b) s = .next t ∧
    ShiftDone16 s t e (s.countOf b) (sarBy (s.readEw e) (s.countOf b)))

/-- ROL and ROR by 1, by CL and by an immediate (R203, R204, R199): the operand rotated by the whole count, CF the bit
rotated round last, OF for count 1, no other flag; count 0 changes nothing. -/
def Obligations.RotateForms : Prop :=
  (∀ s e, ∃ t, exec (.rolEb1 e) s = .next t ∧
    RotateDone8 s t e 1 (rolBy (s.readEb e) 1)) ∧
  (∀ s e, ∃ t, exec (.rolEw1 e) s = .next t ∧
    RotateDone16 s t e 1 (rolBy (s.readEw e) 1)) ∧
  (∀ s e, ∃ t, exec (.rolEbCl e) s = .next t ∧
    RotateDone8 s t e (s.countOf (s.reg8 .cl)) (rolBy (s.readEb e) (s.countOf (s.reg8 .cl)))) ∧
  (∀ s e, ∃ t, exec (.rolEwCl e) s = .next t ∧
    RotateDone16 s t e (s.countOf (s.reg8 .cl)) (rolBy (s.readEw e) (s.countOf (s.reg8 .cl)))) ∧
  (∀ s e b, ∃ t, exec (.rolEbIb e b) s = .next t ∧
    RotateDone8 s t e (s.countOf b) (rolBy (s.readEb e) (s.countOf b))) ∧
  (∀ s e b, ∃ t, exec (.rolEwIb e b) s = .next t ∧
    RotateDone16 s t e (s.countOf b) (rolBy (s.readEw e) (s.countOf b))) ∧
  (∀ s e, ∃ t, exec (.rorEb1 e) s = .next t ∧
    RotateDone8 s t e 1 (rorBy (s.readEb e) 1)) ∧
  (∀ s e, ∃ t, exec (.rorEw1 e) s = .next t ∧
    RotateDone16 s t e 1 (rorBy (s.readEw e) 1)) ∧
  (∀ s e, ∃ t, exec (.rorEbCl e) s = .next t ∧
    RotateDone8 s t e (s.countOf (s.reg8 .cl)) (rorBy (s.readEb e) (s.countOf (s.reg8 .cl)))) ∧
  (∀ s e, ∃ t, exec (.rorEwCl e) s = .next t ∧
    RotateDone16 s t e (s.countOf (s.reg8 .cl)) (rorBy (s.readEw e) (s.countOf (s.reg8 .cl)))) ∧
  (∀ s e b, ∃ t, exec (.rorEbIb e b) s = .next t ∧
    RotateDone8 s t e (s.countOf b) (rorBy (s.readEb e) (s.countOf b))) ∧
  (∀ s e b, ∃ t, exec (.rorEwIb e b) s = .next t ∧
    RotateDone16 s t e (s.countOf b) (rorBy (s.readEw e) (s.countOf b)))

/-- RCL and RCR by 1, by CL and by an immediate (R205, R206, R199): operand and CF rotated as a ring of w + 1 bits, OF
for count 1, no other flag; count 0 changes nothing. -/
def Obligations.RotateThroughCarryForms : Prop :=
  (∀ s e, ∃ t, exec (.rclEb1 e) s = .next t ∧
    RotateDone8 s t e 1 (rclBy (s.readEb e) s.flags.CF 1)) ∧
  (∀ s e, ∃ t, exec (.rclEw1 e) s = .next t ∧
    RotateDone16 s t e 1 (rclBy (s.readEw e) s.flags.CF 1)) ∧
  (∀ s e, ∃ t, exec (.rclEbCl e) s = .next t ∧
    RotateDone8 s t e (s.countOf (s.reg8 .cl)) (rclBy (s.readEb e) s.flags.CF (s.countOf (s.reg8 .cl)))) ∧
  (∀ s e, ∃ t, exec (.rclEwCl e) s = .next t ∧
    RotateDone16 s t e (s.countOf (s.reg8 .cl)) (rclBy (s.readEw e) s.flags.CF (s.countOf (s.reg8 .cl)))) ∧
  (∀ s e b, ∃ t, exec (.rclEbIb e b) s = .next t ∧
    RotateDone8 s t e (s.countOf b) (rclBy (s.readEb e) s.flags.CF (s.countOf b))) ∧
  (∀ s e b, ∃ t, exec (.rclEwIb e b) s = .next t ∧
    RotateDone16 s t e (s.countOf b) (rclBy (s.readEw e) s.flags.CF (s.countOf b))) ∧
  (∀ s e, ∃ t, exec (.rcrEb1 e) s = .next t ∧
    RotateDone8 s t e 1 (rcrBy (s.readEb e) s.flags.CF 1)) ∧
  (∀ s e, ∃ t, exec (.rcrEw1 e) s = .next t ∧
    RotateDone16 s t e 1 (rcrBy (s.readEw e) s.flags.CF 1)) ∧
  (∀ s e, ∃ t, exec (.rcrEbCl e) s = .next t ∧
    RotateDone8 s t e (s.countOf (s.reg8 .cl)) (rcrBy (s.readEb e) s.flags.CF (s.countOf (s.reg8 .cl)))) ∧
  (∀ s e, ∃ t, exec (.rcrEwCl e) s = .next t ∧
    RotateDone16 s t e (s.countOf (s.reg8 .cl)) (rcrBy (s.readEw e) s.flags.CF (s.countOf (s.reg8 .cl)))) ∧
  (∀ s e b, ∃ t, exec (.rcrEbIb e b) s = .next t ∧
    RotateDone8 s t e (s.countOf b) (rcrBy (s.readEb e) s.flags.CF (s.countOf b))) ∧
  (∀ s e b, ∃ t, exec (.rcrEwIb e b) s = .next t ∧
    RotateDone16 s t e (s.countOf b) (rcrBy (s.readEw e) s.flags.CF (s.countOf b)))

/-- MOV in all its forms (42_data_movement.md R220 to R225): the destination holds the source, an 8-bit write keeps
the other half of its register, and nothing else changes, no flag among it. -/
def Obligations.MoveForms : Prop :=
  (∀ s e g, ∃ t, exec (.movEbGb e g) s = .next t ∧ Wrote8 s t e (s.reg8 g) []) ∧
  (∀ s e g, ∃ t, exec (.movEwGw e g) s = .next t ∧ Wrote16 s t e (s.reg16 g) []) ∧
  (∀ s g e, ∃ t, exec (.movGbEb g e) s = .next t ∧ Wrote8 s t (.reg g) (s.readEb e) []) ∧
  (∀ s g e, ∃ t, exec (.movGwEw g e) s = .next t ∧ Wrote16 s t (.reg g) (s.readEw e) []) ∧
  (∀ s e b, ∃ t, exec (.movEbIb e b) s = .next t ∧ Wrote8 s t e b []) ∧
  (∀ s e w, ∃ t, exec (.movEwIw e w) s = .next t ∧ Wrote16 s t e w []) ∧
  (∀ s r b, ∃ t, exec (.movR8Ib r b) s = .next t ∧ Wrote8 s t (.reg r) b []) ∧
  (∀ s r w, ∃ t, exec (.movR16Iw r w) s = .next t ∧ Wrote16 s t (.reg r) w []) ∧
  (∀ s off, ∃ t, exec (.movAlMoffs off) s = .next t ∧ Wrote8 s t (.reg .al) (s.mem.read (phys s.sourceSeg off)) []) ∧
  (∀ s off, ∃ t, exec (.movAxMoffs off) s = .next t ∧ s.HoldsWord s.sourceSeg off (t.reg16 .ax) ∧
    Changes s t [.ax] [] []) ∧
  (∀ s off, ∃ t, exec (.movMoffsAl off) s = .next t ∧ t.mem.read (phys s.sourceSeg off) = s.reg8 .al ∧
    Changes s t [] [phys s.sourceSeg off] []) ∧
  (∀ s off, ∃ t, exec (.movMoffsAx off) s = .next t ∧ t.HoldsWord s.sourceSeg off (s.reg16 .ax) ∧
    Changes s t [] (wordBytes s.sourceSeg off) []) ∧
  (∀ s e sr, ∃ t, exec (.movEwSw e sr) s = .next t ∧ Wrote16 s t e (s.seg sr) []) ∧
  (∀ s e, ∃ t, exec (.movEsEw e) s = .next t ∧ t.seg .es = s.readEw e ∧ Changes s t [] [] [.es]) ∧
  (∀ s e, ∃ t, exec (.movSsEw e) s = .next t ∧ t.seg .ss = s.readEw e ∧ Changes s t [] [] [.ss]) ∧
  (∀ s e, ∃ t, exec (.movDsEw e) s = .next t ∧ t.seg .ds = s.readEw e ∧ Changes s t [] [] [.ds])

/-- PUSH, PUSHF and PUSH of an immediate (R228 to R230, R247, 46_ext186.md R384, R385): SP down by two, the word in
its slot, and nothing else changes. PUSH SP, in both its encodings, stores SP after the decrement. -/
def Obligations.PushForms : Prop :=
  (∀ s r, r ≠ .sp → ∃ t, exec (.pushR16 r) s = .next t ∧ Pushed s t [s.reg16 r] [] []) ∧
  (∀ s, ∃ t, exec (.pushR16 .sp) s = .next t ∧ Pushed s t [s.below 2] [] []) ∧
  (∀ s e, e ≠ .reg .sp → ∃ t, exec (.pushEw e) s = .next t ∧ Pushed s t [s.readEw e] [] []) ∧
  (∀ s, ∃ t, exec (.pushEw (.reg .sp)) s = .next t ∧ Pushed s t [s.below 2] [] []) ∧
  (∀ s, ∃ t, exec .pushEs s = .next t ∧ Pushed s t [s.seg .es] [] []) ∧
  (∀ s, ∃ t, exec .pushCs s = .next t ∧ Pushed s t [s.seg .cs] [] []) ∧
  (∀ s, ∃ t, exec .pushSs s = .next t ∧ Pushed s t [s.seg .ss] [] []) ∧
  (∀ s, ∃ t, exec .pushDs s = .next t ∧ Pushed s t [s.seg .ds] [] []) ∧
  (∀ s, ∃ t, exec .pushf s = .next t ∧ Pushed s t [s.flags.image] [] []) ∧
  (∀ s w, ∃ t, exec (.pushIw w) s = .next t ∧ Pushed s t [w] [] []) ∧
  (∀ s b, ∃ t, exec (.pushIb b) s = .next t ∧ Pushed s t [b.signExtend 16] [] [])

/-- POP and POPF (R231 to R233, R248): the word at SS:SP in the destination, SP up by two, and nothing else changes;
POP SP leaves the word popped; a memory destination was resolved before the pop; POPF writes all nine flags. -/
def Obligations.PopForms : Prop :=
  (∀ s r, r ≠ .sp → ∃ t, exec (.popR16 r) s = .next t ∧ t.reg16 r = s.stackWord 0 ∧ t.reg16 .sp = s.above 2 ∧
    Changes s t [r, .sp] [] []) ∧
  (∀ s, ∃ t, exec (.popR16 .sp) s = .next t ∧ t.reg16 .sp = s.stackWord 0 ∧ Changes s t [.sp] [] []) ∧
  (∀ s r, r ≠ .sp → ∃ t, exec (.popEw (.reg r)) s = .next t ∧ t.reg16 r = s.stackWord 0 ∧ t.reg16 .sp = s.above 2 ∧
    Changes s t [r, .sp] [] []) ∧
  (∀ s, ∃ t, exec (.popEw (.reg .sp)) s = .next t ∧ t.reg16 .sp = s.stackWord 0 ∧ Changes s t [.sp] [] []) ∧
  (∀ s m, ∃ t, exec (.popEw (.mem m)) s = .next t ∧ t.reg16 .sp = s.above 2 ∧
    t.HoldsWord (s.memSeg m) (s.ea m) (s.stackWord 0) ∧ Changes s t [.sp] (wordBytes (s.memSeg m) (s.ea m)) []) ∧
  (∀ s, ∃ t, exec .popEs s = .next t ∧ t.seg .es = s.stackWord 0 ∧ t.reg16 .sp = s.above 2 ∧
    Changes s t [.sp] [] [.es]) ∧
  (∀ s, ∃ t, exec .popSs s = .next t ∧ t.seg .ss = s.stackWord 0 ∧ t.reg16 .sp = s.above 2 ∧
    Changes s t [.sp] [] [.ss]) ∧
  (∀ s, ∃ t, exec .popDs s = .next t ∧ t.seg .ds = s.stackWord 0 ∧ t.reg16 .sp = s.above 2 ∧
    Changes s t [.sp] [] [.ds]) ∧
  (∀ s, ∃ t, exec .popf s = .next t ∧ FlagsFrom (s.stackWord 0) t.flags ∧ t.reg16 .sp = s.above 2 ∧
    Changes s t [.sp] [] [.flags])

/-- XCHG (R236, R237): the two operands trade their values, the address of a memory operand taken from the old
registers, and nothing else changes. -/
def Obligations.ExchangeForms : Prop :=
  (∀ s r g, ∃ t, exec (.xchgEbGb (.reg r) g) s = .next t ∧ t.reg8 r = s.reg8 g ∧ t.reg8 g = s.reg8 r ∧
    (∀ q, q ≠ r → q ≠ g → t.reg8 q = s.reg8 q) ∧ Changes s t [Reg8.home r, Reg8.home g] [] []) ∧
  (∀ s m g, ∃ t, exec (.xchgEbGb (.mem m) g) s = .next t ∧ t.mem.read (phys (s.memSeg m) (s.ea m)) = s.reg8 g ∧
    t.reg8 g = s.mem.read (phys (s.memSeg m) (s.ea m)) ∧ (∀ q, q ≠ g → t.reg8 q = s.reg8 q) ∧
    Changes s t [Reg8.home g] [phys (s.memSeg m) (s.ea m)] []) ∧
  (∀ s r g, ∃ t, exec (.xchgEwGw (.reg r) g) s = .next t ∧ t.reg16 r = s.reg16 g ∧ t.reg16 g = s.reg16 r ∧
    Changes s t [r, g] [] []) ∧
  (∀ s m g, ∃ t, exec (.xchgEwGw (.mem m) g) s = .next t ∧ t.HoldsWord (s.memSeg m) (s.ea m) (s.reg16 g) ∧
    s.HoldsWord (s.memSeg m) (s.ea m) (t.reg16 g) ∧ Changes s t [g] (wordBytes (s.memSeg m) (s.ea m)) []) ∧
  (∀ s, ∃ t, exec .xchgAxCx s = .next t ∧ t.reg16 .ax = s.reg16 .cx ∧ t.reg16 .cx = s.reg16 .ax ∧
    Changes s t [.ax, .cx] [] []) ∧
  (∀ s, ∃ t, exec .xchgAxDx s = .next t ∧ t.reg16 .ax = s.reg16 .dx ∧ t.reg16 .dx = s.reg16 .ax ∧
    Changes s t [.ax, .dx] [] []) ∧
  (∀ s, ∃ t, exec .xchgAxBx s = .next t ∧ t.reg16 .ax = s.reg16 .bx ∧ t.reg16 .bx = s.reg16 .ax ∧
    Changes s t [.ax, .bx] [] []) ∧
  (∀ s, ∃ t, exec .xchgAxSp s = .next t ∧ t.reg16 .ax = s.reg16 .sp ∧ t.reg16 .sp = s.reg16 .ax ∧
    Changes s t [.ax, .sp] [] []) ∧
  (∀ s, ∃ t, exec .xchgAxBp s = .next t ∧ t.reg16 .ax = s.reg16 .bp ∧ t.reg16 .bp = s.reg16 .ax ∧
    Changes s t [.ax, .bp] [] []) ∧
  (∀ s, ∃ t, exec .xchgAxSi s = .next t ∧ t.reg16 .ax = s.reg16 .si ∧ t.reg16 .si = s.reg16 .ax ∧
    Changes s t [.ax, .si] [] []) ∧
  (∀ s, ∃ t, exec .xchgAxDi s = .next t ∧ t.reg16 .ax = s.reg16 .di ∧ t.reg16 .di = s.reg16 .ax ∧
    Changes s t [.ax, .di] [] [])

/-- XLAT, LEA, LDS and LES (R238, R240 to R242): AL from the table at BX + AL; the effective address itself, with no
memory read; the pointer's offset word in the register and its segment word in DS or ES, both read before either is
written. -/
def Obligations.TableAndPointerLoads : Prop :=
  (∀ s, ∃ t, exec .xlat s = .next t ∧
    t.reg8 .al = s.mem.read (phys s.sourceSeg (BitVec.ofNat 16 ((s.reg16 .bx).toNat + (s.reg8 .al).toNat))) ∧
    (∀ q, q ≠ .al → t.reg8 q = s.reg8 q) ∧ Changes s t [.ax] [] []) ∧
  (∀ s g m, ∃ t, exec (.leaGwM g m) s = .next t ∧ t.reg16 g = s.ea m ∧ Changes s t [g] [] []) ∧
  (∀ s g m, ∃ t, exec (.ldsGwM g m) s = .next t ∧ s.HoldsWord (s.memSeg m) (s.ea m) (t.reg16 g) ∧
    s.HoldsWord (s.memSeg m) (s.ea m + 2#16) (t.seg .ds) ∧ Changes s t [g] [] [.ds]) ∧
  (∀ s g m, ∃ t, exec (.lesGwM g m) s = .next t ∧ s.HoldsWord (s.memSeg m) (s.ea m) (t.reg16 g) ∧
    s.HoldsWord (s.memSeg m) (s.ea m + 2#16) (t.seg .es) ∧ Changes s t [g] [] [.es])

/-- LAHF and SAHF (R245, R246): AH is SF, ZF, 0, AF, 0, PF, 1, CF from bit 7 down; SAHF writes those five flags from
AH and keeps the other four. Their encodings. -/
def Obligations.FlagByteTransfers : Prop :=
  EncodedBy [0x9F#8] .lahf ∧
  EncodedBy [0x9E#8] .sahf ∧
  (∀ s, ∃ t, exec .lahf s = .next t ∧
    (t.reg8 .ah).toNat = s.flags.SF.toNat * 128 + s.flags.ZF.toNat * 64 + s.flags.AF.toNat * 16 +
      s.flags.PF.toNat * 4 + 2 + s.flags.CF.toNat ∧
    (∀ q, q ≠ .ah → t.reg8 q = s.reg8 q) ∧ Changes s t [.ax] [] []) ∧
  (∀ s, ∃ t, exec .sahf s = .next t ∧ t.flags.SF = (s.reg8 .ah).getLsbD 7 ∧ t.flags.ZF = (s.reg8 .ah).getLsbD 6 ∧
    t.flags.AF = (s.reg8 .ah).getLsbD 4 ∧ t.flags.PF = (s.reg8 .ah).getLsbD 2 ∧ t.flags.CF = (s.reg8 .ah).getLsbD 0 ∧
    t.flags.OF = s.flags.OF ∧ ControlKept s.flags t.flags ∧ Changes s t [] [] [.flags])

/-- IN and OUT (R250, R251, 00_scope.md R6, 20_memory.md R67): exactly one transaction, at the port of the immediate
byte zero-extended or of DX. What IN reads is an input of the step and not constrained, but it is what lands in AL (AH
kept) or AX. OUT writes AL or AX and changes no register. The record of transactions is the model's (log entries 6,
7). -/
def Obligations.PortForms : Prop :=
  (∀ s b, ∃ t, exec (.inAlIb b) s = .next t ∧ t.io = .read8 (b.setWidth 16) (t.reg8 .al) :: s.io ∧
    (∀ q, q ≠ .al → t.reg8 q = s.reg8 q) ∧ Changes s t [.ax] [] [.io]) ∧
  (∀ s, ∃ t, exec .inAlDx s = .next t ∧ t.io = .read8 (s.reg16 .dx) (t.reg8 .al) :: s.io ∧
    (∀ q, q ≠ .al → t.reg8 q = s.reg8 q) ∧ Changes s t [.ax] [] [.io]) ∧
  (∀ s b, ∃ t, exec (.inAxIb b) s = .next t ∧ t.io = .read16 (b.setWidth 16) (t.reg16 .ax) :: s.io ∧
    Changes s t [.ax] [] [.io]) ∧
  (∀ s, ∃ t, exec .inAxDx s = .next t ∧ t.io = .read16 (s.reg16 .dx) (t.reg16 .ax) :: s.io ∧
    Changes s t [.ax] [] [.io]) ∧
  (∀ s b, ∃ t, exec (.outIbAl b) s = .next t ∧ t.io = .write8 (b.setWidth 16) (s.reg8 .al) :: s.io ∧
    Changes s t [] [] [.io]) ∧
  (∀ s b, ∃ t, exec (.outIbAx b) s = .next t ∧ t.io = .write16 (b.setWidth 16) (s.reg16 .ax) :: s.io ∧
    Changes s t [] [] [.io]) ∧
  (∀ s, ∃ t, exec .outDxAl s = .next t ∧ t.io = .write8 (s.reg16 .dx) (s.reg8 .al) :: s.io ∧
    Changes s t [] [] [.io]) ∧
  (∀ s, ∃ t, exec .outDxAx s = .next t ∧ t.io = .write16 (s.reg16 .dx) (s.reg16 .ax) :: s.io ∧
    Changes s t [] [] [.io])

/-- JMP (43_control_transfer.md R270 to R274): IP moves by the signed displacement modulo 2^16, or becomes the
operand; a far jump also loads CS; nothing else changes. -/
def Obligations.JumpForms : Prop :=
  (∀ s d, ∃ t, exec (.jmpCb d) s = .next t ∧ t.ip = BitVec.ofInt 16 (s.ip.toNat + d.toInt) ∧ Changes s t [] [] [.ip]) ∧
  (∀ s d, ∃ t, exec (.jmpCw d) s = .next t ∧ t.ip.toNat = (s.ip.toNat + d.toNat) % 0x10000 ∧ Changes s t [] [] [.ip]) ∧
  (∀ s e, ∃ t, exec (.jmpEw e) s = .next t ∧ t.ip = s.readEw e ∧ Changes s t [] [] [.ip]) ∧
  (∀ s off sel, ∃ t, exec (.jmpFar off sel) s = .next t ∧ t.ip = off ∧ t.seg .cs = sel ∧ Changes s t [] [] [.ip, .cs]) ∧
  (∀ s m, ∃ t, exec (.jmpM m) s = .next t ∧ s.HoldsWord (s.memSeg m) (s.ea m) t.ip ∧
    s.HoldsWord (s.memSeg m) (s.ea m + 2#16) (t.seg .cs) ∧ Changes s t [] [] [.ip, .cs])

/-- CALL (R276 to R279): the advanced IP, after CS for a far call, is pushed; the target, read before the pushes, is
loaded; nothing else changes. -/
def Obligations.CallForms : Prop :=
  (∀ s d, ∃ t, exec (.callCw d) s = .next t ∧ t.ip.toNat = (s.ip.toNat + d.toNat) % 0x10000 ∧ Pushed s t [s.ip] [] [.ip]) ∧
  (∀ s e, ∃ t, exec (.callEw e) s = .next t ∧ t.ip = s.readEw e ∧ Pushed s t [s.ip] [] [.ip]) ∧
  (∀ s off sel, ∃ t, exec (.callFar off sel) s = .next t ∧ t.ip = off ∧ t.seg .cs = sel ∧
    Pushed s t [s.seg .cs, s.ip] [] [.ip, .cs]) ∧
  (∀ s m, ∃ t, exec (.callM m) s = .next t ∧ s.HoldsWord (s.memSeg m) (s.ea m) t.ip ∧
    s.HoldsWord (s.memSeg m) (s.ea m + 2#16) (t.seg .cs) ∧ Pushed s t [s.seg .cs, s.ip] [] [.ip, .cs])

/-- RET and RETF (R281 to R284): IP, and for a far return then CS, popped; SP up by the words popped and the
immediate, modulo 2^16; nothing else changes. Their encodings. -/
def Obligations.ReturnForms : Prop :=
  EncodedBy [0xC3#8] .ret ∧
  (∀ lo hi, EncodedBy [0xC2#8, lo, hi] (.retIw (Word.ofBytes lo hi))) ∧
  EncodedBy [0xCB#8] .retf ∧
  (∀ lo hi, EncodedBy [0xCA#8, lo, hi] (.retfIw (Word.ofBytes lo hi))) ∧
  (∀ s, ∃ t, exec .ret s = .next t ∧ t.ip = s.stackWord 0 ∧ t.reg16 .sp = s.above 2 ∧ Changes s t [.sp] [] [.ip]) ∧
  (∀ s w, ∃ t, exec (.retIw w) s = .next t ∧ t.ip = s.stackWord 0 ∧ t.reg16 .sp = s.above (2 + w.toNat) ∧
    Changes s t [.sp] [] [.ip]) ∧
  (∀ s, ∃ t, exec .retf s = .next t ∧ t.ip = s.stackWord 0 ∧ t.seg .cs = s.stackWord 1 ∧ t.reg16 .sp = s.above 4 ∧
    Changes s t [.sp] [] [.ip, .cs]) ∧
  (∀ s w, ∃ t, exec (.retfIw w) s = .next t ∧ t.ip = s.stackWord 0 ∧ t.seg .cs = s.stackWord 1 ∧
    t.reg16 .sp = s.above (4 + w.toNat) ∧ Changes s t [.sp] [] [.ip, .cs])

/-- Jcc (R286): each of the sixteen jumps by its signed displacement exactly when its condition holds; otherwise IP
stays at the next instruction; nothing else changes. Their encodings. -/
def Obligations.ConditionalJumps : Prop :=
  (∀ d, EncodedBy [0x70#8, d] (.jo d)) ∧
  (∀ d, EncodedBy [0x71#8, d] (.jno d)) ∧
  (∀ d, EncodedBy [0x72#8, d] (.jb d)) ∧
  (∀ d, EncodedBy [0x73#8, d] (.jnb d)) ∧
  (∀ d, EncodedBy [0x74#8, d] (.je d)) ∧
  (∀ d, EncodedBy [0x75#8, d] (.jne d)) ∧
  (∀ d, EncodedBy [0x76#8, d] (.jbe d)) ∧
  (∀ d, EncodedBy [0x77#8, d] (.ja d)) ∧
  (∀ d, EncodedBy [0x78#8, d] (.js d)) ∧
  (∀ d, EncodedBy [0x79#8, d] (.jns d)) ∧
  (∀ d, EncodedBy [0x7A#8, d] (.jp d)) ∧
  (∀ d, EncodedBy [0x7B#8, d] (.jnp d)) ∧
  (∀ d, EncodedBy [0x7C#8, d] (.jl d)) ∧
  (∀ d, EncodedBy [0x7D#8, d] (.jge d)) ∧
  (∀ d, EncodedBy [0x7E#8, d] (.jle d)) ∧
  (∀ d, EncodedBy [0x7F#8, d] (.jg d)) ∧
  (∀ s d, ∃ t, exec (.jo d) s = .next t ∧ Branched s t (s.flags.OF = true) d) ∧
  (∀ s d, ∃ t, exec (.jno d) s = .next t ∧ Branched s t (s.flags.OF = false) d) ∧
  (∀ s d, ∃ t, exec (.jb d) s = .next t ∧ Branched s t (s.flags.CF = true) d) ∧
  (∀ s d, ∃ t, exec (.jnb d) s = .next t ∧ Branched s t (s.flags.CF = false) d) ∧
  (∀ s d, ∃ t, exec (.je d) s = .next t ∧ Branched s t (s.flags.ZF = true) d) ∧
  (∀ s d, ∃ t, exec (.jne d) s = .next t ∧ Branched s t (s.flags.ZF = false) d) ∧
  (∀ s d, ∃ t, exec (.jbe d) s = .next t ∧ Branched s t (s.flags.CF = true ∨ s.flags.ZF = true) d) ∧
  (∀ s d, ∃ t, exec (.ja d) s = .next t ∧ Branched s t (s.flags.CF = false ∧ s.flags.ZF = false) d) ∧
  (∀ s d, ∃ t, exec (.js d) s = .next t ∧ Branched s t (s.flags.SF = true) d) ∧
  (∀ s d, ∃ t, exec (.jns d) s = .next t ∧ Branched s t (s.flags.SF = false) d) ∧
  (∀ s d, ∃ t, exec (.jp d) s = .next t ∧ Branched s t (s.flags.PF = true) d) ∧
  (∀ s d, ∃ t, exec (.jnp d) s = .next t ∧ Branched s t (s.flags.PF = false) d) ∧
  (∀ s d, ∃ t, exec (.jl d) s = .next t ∧ Branched s t (s.flags.SF ≠ s.flags.OF) d) ∧
  (∀ s d, ∃ t, exec (.jge d) s = .next t ∧ Branched s t (s.flags.SF = s.flags.OF) d) ∧
  (∀ s d, ∃ t, exec (.jle d) s = .next t ∧ Branched s t (s.flags.ZF = true ∨ s.flags.SF ≠ s.flags.OF) d) ∧
  (∀ s d, ∃ t, exec (.jg d) s = .next t ∧ Branched s t (s.flags.ZF = false ∧ s.flags.SF = s.flags.OF) d)

/-- LOOP, LOOPE, LOOPNE and JCXZ (R288 to R291): CX down by one modulo 2^16 with no flag touched, the jump taken when
the new CX is not 0 (and ZF is as asked); JCXZ tests CX and keeps it. Their encodings. -/
def Obligations.LoopForms : Prop :=
  (∀ d, EncodedBy [0xE2#8, d] (.loop d)) ∧
  (∀ d, EncodedBy [0xE1#8, d] (.loope d)) ∧
  (∀ d, EncodedBy [0xE0#8, d] (.loopne d)) ∧
  (∀ d, EncodedBy [0xE3#8, d] (.jcxz d)) ∧
  (∀ s d, ∃ t, exec (.loop d) s = .next t ∧ Looped s t True d) ∧
  (∀ s d, ∃ t, exec (.loope d) s = .next t ∧ Looped s t (s.flags.ZF = true) d) ∧
  (∀ s d, ∃ t, exec (.loopne d) s = .next t ∧ Looped s t (s.flags.ZF = false) d) ∧
  (∀ s d, ∃ t, exec (.jcxz d) s = .next t ∧ Branched s t (s.reg16 .cx = 0#16) d)

/-- INT, INT3, INTO, Invalid and IRET (R295 to R300, 45_system.md R365, 60_exceptions.md R412 to R415, R427): the
FLAGS image, CS and the advanced IP are pushed, TF and IF cleared, and CS:IP loaded from the vector read after the
pushes; with a registered handler the host runs instead and the three words are popped again; INTO does nothing when
OF is 0; IRET pops IP, CS and all nine flags. With a registered handler, what the host leaves is the free answer of
log entry 5. -/
def Obligations.SoftwareInterrupts : Prop :=
  (∀ s n, ∃ t, exec (.intIb n) s = .next t ∧ Raised s t n) ∧
  (∀ s, ∃ t, exec .int3 s = .next t ∧ Raised s t 3#8) ∧
  (∀ s, ∃ t, exec .into s = .next t ∧ (s.flags.OF = true → Raised s t 4#8) ∧ (s.flags.OF = false → Changes s t [] [] [])) ∧
  (∀ s raw, ∃ t, exec (.invalid raw) s = .next t ∧ Raised s t 6#8) ∧
  (∀ s, ∃ t, exec .iret s = .next t ∧ Returned s t)

/-- The seven single-flag instructions change the one flag they name (45_system.md R350 to R356); HLT sets halted
(R358); NOP, WAIT and ESC change nothing (R357, R359, R360). The encodings of all but ESC. -/
def Obligations.SingleFlagAndProcessorControl : Prop :=
  EncodedBy [0xF8#8] .clc ∧
  EncodedBy [0xF9#8] .stc ∧
  EncodedBy [0xF5#8] .cmc ∧
  EncodedBy [0xFC#8] .cld ∧
  EncodedBy [0xFD#8] .std ∧
  EncodedBy [0xFA#8] .cli ∧
  EncodedBy [0xFB#8] .sti ∧
  EncodedBy [0xF4#8] .hlt ∧
  EncodedBy [0x90#8] .nop ∧
  EncodedBy [0x9B#8] .wait ∧
  (∀ s, ∃ t, exec .clc s = .next t ∧ t.flags = { s.flags with CF := false } ∧ Changes s t [] [] [.flags]) ∧
  (∀ s, ∃ t, exec .stc s = .next t ∧ t.flags = { s.flags with CF := true } ∧ Changes s t [] [] [.flags]) ∧
  (∀ s, ∃ t, exec .cmc s = .next t ∧ t.flags = { s.flags with CF := !s.flags.CF } ∧ Changes s t [] [] [.flags]) ∧
  (∀ s, ∃ t, exec .cld s = .next t ∧ t.flags = { s.flags with DF := false } ∧ Changes s t [] [] [.flags]) ∧
  (∀ s, ∃ t, exec .std s = .next t ∧ t.flags = { s.flags with DF := true } ∧ Changes s t [] [] [.flags]) ∧
  (∀ s, ∃ t, exec .cli s = .next t ∧ t.flags = { s.flags with IF := false } ∧ Changes s t [] [] [.flags]) ∧
  (∀ s, ∃ t, exec .sti s = .next t ∧ t.flags = { s.flags with IF := true } ∧ Changes s t [] [] [.flags]) ∧
  (∀ s, ∃ t, exec .hlt s = .next t ∧ t.halted = true ∧ Changes s t [] [] [.halted]) ∧
  (∀ s, ∃ t, exec .nop s = .next t ∧ Changes s t [] [] []) ∧
  (∀ s, ∃ t, exec .wait s = .next t ∧ Changes s t [] [] []) ∧
  (∀ s op reg e, ∃ t, exec (.esc op reg e) s = .next t ∧ Changes s t [] [] [])

/-- One element of each string instruction, without a repeat (44_string.md R320 to R325, 46_ext186.md R387, R388): the
element at DS or the override and SI, or at ES:DI, is moved, loaded, compared, scanned, stored, read from or written
to port DX; the indices used move by the element's size in the direction of DF; nothing else changes, CX among it. The
record of port transactions is the model's (log entries 6, 7). -/
def Obligations.StringElements : Prop :=
  (∀ s, s.pfx.rep = none → ∃ t, exec .movsb s = .next t ∧
    t.mem.read (phys (s.seg .es) (s.reg16 .di)) = s.mem.read (phys s.sourceSeg (s.reg16 .si)) ∧
    t.reg16 .si = s.moved .si 1 ∧ t.reg16 .di = s.moved .di 1 ∧
    Changes s t [.si, .di] [phys (s.seg .es) (s.reg16 .di)] []) ∧
  (∀ s, s.pfx.rep = none → ∃ t, exec .movsw s = .next t ∧
    t.HoldsWord (s.seg .es) (s.reg16 .di) (s.read16 s.sourceSeg (s.reg16 .si)) ∧
    t.reg16 .si = s.moved .si 2 ∧ t.reg16 .di = s.moved .di 2 ∧
    Changes s t [.si, .di] (wordBytes (s.seg .es) (s.reg16 .di)) []) ∧
  (∀ s, s.pfx.rep = none → ∃ t, exec .lodsb s = .next t ∧
    t.reg8 .al = s.mem.read (phys s.sourceSeg (s.reg16 .si)) ∧ t.reg8 .ah = s.reg8 .ah ∧
    t.reg16 .si = s.moved .si 1 ∧ Changes s t [.ax, .si] [] []) ∧
  (∀ s, s.pfx.rep = none → ∃ t, exec .lodsw s = .next t ∧ s.HoldsWord s.sourceSeg (s.reg16 .si) (t.reg16 .ax) ∧
    t.reg16 .si = s.moved .si 2 ∧ Changes s t [.ax, .si] [] []) ∧
  (∀ s, s.pfx.rep = none → ∃ t, exec .cmpsb s = .next t ∧
    (let a := s.mem.read (phys s.sourceSeg (s.reg16 .si))
     let b := s.mem.read (phys (s.seg .es) (s.reg16 .di))
     SubSets a b false (difference a b false) s.flags t.flags) ∧
    t.reg16 .si = s.moved .si 1 ∧ t.reg16 .di = s.moved .di 1 ∧ Changes s t [.si, .di] [] [.flags]) ∧
  (∀ s, s.pfx.rep = none → ∃ t, exec .cmpsw s = .next t ∧
    (let a := s.read16 s.sourceSeg (s.reg16 .si)
     let b := s.read16 (s.seg .es) (s.reg16 .di)
     SubSets a b false (difference a b false) s.flags t.flags) ∧
    t.reg16 .si = s.moved .si 2 ∧ t.reg16 .di = s.moved .di 2 ∧ Changes s t [.si, .di] [] [.flags]) ∧
  (∀ s, s.pfx.rep = none → ∃ t, exec .scasb s = .next t ∧
    (let b := s.mem.read (phys (s.seg .es) (s.reg16 .di))
     SubSets (s.reg8 .al) b false (difference (s.reg8 .al) b false) s.flags t.flags) ∧
    t.reg16 .di = s.moved .di 1 ∧ Changes s t [.di] [] [.flags]) ∧
  (∀ s, s.pfx.rep = none → ∃ t, exec .scasw s = .next t ∧
    (let b := s.read16 (s.seg .es) (s.reg16 .di)
     SubSets (s.reg16 .ax) b false (difference (s.reg16 .ax) b false) s.flags t.flags) ∧
    t.reg16 .di = s.moved .di 2 ∧ Changes s t [.di] [] [.flags]) ∧
  (∀ s, s.pfx.rep = none → ∃ t, exec .stosb s = .next t ∧
    t.mem.read (phys (s.seg .es) (s.reg16 .di)) = s.reg8 .al ∧ t.reg16 .di = s.moved .di 1 ∧
    Changes s t [.di] [phys (s.seg .es) (s.reg16 .di)] []) ∧
  (∀ s, s.pfx.rep = none → ∃ t, exec .stosw s = .next t ∧
    t.HoldsWord (s.seg .es) (s.reg16 .di) (s.reg16 .ax) ∧ t.reg16 .di = s.moved .di 2 ∧
    Changes s t [.di] (wordBytes (s.seg .es) (s.reg16 .di)) []) ∧
  (∀ s, s.pfx.rep = none → ∃ t v, exec .insb s = .next t ∧ t.io = .read8 (s.reg16 .dx) v :: s.io ∧
    t.mem.read (phys (s.seg .es) (s.reg16 .di)) = v ∧ t.reg16 .di = s.moved .di 1 ∧
    Changes s t [.di] [phys (s.seg .es) (s.reg16 .di)] [.io]) ∧
  (∀ s, s.pfx.rep = none → ∃ t v, exec .insw s = .next t ∧ t.io = .read16 (s.reg16 .dx) v :: s.io ∧
    t.HoldsWord (s.seg .es) (s.reg16 .di) v ∧ t.reg16 .di = s.moved .di 2 ∧
    Changes s t [.di] (wordBytes (s.seg .es) (s.reg16 .di)) [.io]) ∧
  (∀ s, s.pfx.rep = none → ∃ t, exec .outsb s = .next t ∧
    t.io = .write8 (s.reg16 .dx) (s.mem.read (phys s.sourceSeg (s.reg16 .si))) :: s.io ∧
    t.reg16 .si = s.moved .si 1 ∧ Changes s t [.si] [] [.io]) ∧
  (∀ s, s.pfx.rep = none → ∃ t, exec .outsw s = .next t ∧
    t.io = .write16 (s.reg16 .dx) (s.read16 s.sourceSeg (s.reg16 .si)) :: s.io ∧
    t.reg16 .si = s.moved .si 2 ∧ Changes s t [.si] [] [.io])

/-- A repeated string instruction (44_string.md R330, R331, R333) executes, in one step: nothing when CX is 0; else
one element (as without the repeat), then CX down by one, then the exit test of CMPS and SCAS on the ZF just written,
and then the same again. -/
def Obligations.RepeatedStringSteps : Prop :=
  ∀ (i : Instr) (s : State) (r : Rep), i.isString = true → s.pfx.rep = some r →
    (s.reg16 .cx = 0#16 → ∃ t, exec i s = .next t ∧ Changes s t [] [] []) ∧
    (s.reg16 .cx ≠ 0#16 → ∃ u, exec i (s.setPfx { s.pfx with rep := none }) = .next u ∧
      (let v := (u.setReg16 .cx (s.reg16 .cx - 1#16)).setPfx s.pfx
       let done := i.comparesStrings = true ∧ u.flags.ZF = decide (r = .repne)
       (done → exec i s = .next v) ∧ (¬done → exec i s = exec i v)))

/-- A repeated string instruction always completes, and only what its elements change has changed (44_string.md R330,
R331, R333, 46_ext186.md R387, R388). It executes some number n of elements, at least one where CX is not 0, and CX
goes down by n. CX ends at 0 unless CMPS or SCAS ended on ZF, with the ZF its repeat asks for. The indices it steps
have moved by n elements in the direction of DF. MOVS, STOS and INS keep every byte of memory outside their n
destination elements at ES:DI, the others keep all of memory. AX may change only for LODS (LODSB keeps AH), the flags
only for CMPS and SCAS (which keep TF, IF and DF), the record of port transactions only for INS and OUTS. Nothing else
changes, and with CX = 0 nothing at all. That the repeat stands in State.pfx and port transactions are recorded in
State.io is the model's choice (log entries 3, 7). -/
def Obligations.RepeatedStringsFinish : Prop :=
  ∀ (i : Instr) (s : State) (r : Rep), i.isString = true → s.pfx.rep = some r →
    ∃ t n, exec i s = .next t ∧ (t.reg16 .cx).toNat + n = (s.reg16 .cx).toNat ∧ (n = 0 → s.reg16 .cx = 0#16) ∧
      (t.reg16 .cx = 0#16 ∨ i.comparesStrings = true ∧ t.flags.ZF = decide (r = .repne)) ∧
      (let moved := if i.byteElement then n else 2 * n
       (i.stepsSi = true → t.reg16 .si = s.moved .si moved) ∧ (i.stepsDi = true → t.reg16 .di = s.moved .di moved)) ∧
      (i = .lodsb → t.reg8 .ah = s.reg8 .ah) ∧ ControlKept s.flags t.flags ∧
      Changes s t (if n = 0 then [] else .cx :: i.elementRegs) (s.storedElements i n) (if n = 0 then [] else i.elementParts)

/-- REP MOVSB and REP STOSB (R325, R330, R333). MOVSB: with CX = N it leaves CX = 0, moves SI and DI by N in the
direction of DF, changes no flag and no byte outside the N destination bytes; and where no destination byte is a
source byte, each destination byte is its source byte. STOSB: each of the N destination bytes is AL, CX is 0, DI has
moved by N, and nothing else changes. -/
def Obligations.RepeatedBlockMoves : Prop :=
  (∀ (s : State) (r : Rep), s.pfx.rep = some r →
    ∃ t, exec .movsb s = .next t ∧ t.reg16 .cx = 0#16 ∧ t.reg16 .si = s.moved .si (s.reg16 .cx).toNat ∧
      t.reg16 .di = s.moved .di (s.reg16 .cx).toNat ∧
      Changes s t [.cx, .si, .di] (s.elements (s.seg .es) .di (s.reg16 .cx).toNat) [] ∧
      ((∀ a ∈ s.elements (s.seg .es) .di (s.reg16 .cx).toNat, a ∉ s.elements s.sourceSeg .si (s.reg16 .cx).toNat) →
        ∀ k < (s.reg16 .cx).toNat,
          t.mem.read (phys (s.seg .es) (s.moved .di k)) = s.mem.read (phys s.sourceSeg (s.moved .si k)))) ∧
  (∀ (s : State) (r : Rep), s.pfx.rep = some r →
    ∃ t, exec .stosb s = .next t ∧ t.reg16 .cx = 0#16 ∧ t.reg16 .di = s.moved .di (s.reg16 .cx).toNat ∧
      Changes s t [.cx, .di] (s.elements (s.seg .es) .di (s.reg16 .cx).toNat) [] ∧
      ∀ k < (s.reg16 .cx).toNat, t.mem.read (phys (s.seg .es) (s.moved .di k)) = s.reg8 .al)

/-- PUSHA, POPA, BOUND, ENTER and LEAVE of the 80186 (46_ext186.md R381 to R383, R390, R391). With a registered
handler for vector 5, what the host leaves is the free answer of log entry 5. -/
def Obligations.FrameAndBoundForms : Prop :=
  (∀ s, ∃ t, exec .pusha s = .next t ∧
    Pushed s t [s.reg16 .ax, s.reg16 .cx, s.reg16 .dx, s.reg16 .bx, s.reg16 .sp, s.reg16 .bp, s.reg16 .si, s.reg16 .di] [] []) ∧
  (∀ s, ∃ t, exec .popa s = .next t ∧ t.reg16 .di = s.stackWord 0 ∧ t.reg16 .si = s.stackWord 1 ∧
    t.reg16 .bp = s.stackWord 2 ∧ t.reg16 .bx = s.stackWord 4 ∧ t.reg16 .dx = s.stackWord 5 ∧
    t.reg16 .cx = s.stackWord 6 ∧ t.reg16 .ax = s.stackWord 7 ∧ t.reg16 .sp = s.above 16 ∧
    Changes s t [.di, .si, .bp, .sp, .bx, .dx, .cx, .ax] [] []) ∧
  (∀ s g m, ∃ t, exec (.boundGwM g m) s = .next t ∧
    (let i := (s.reg16 g).toInt
     let lo := (s.read16 (s.memSeg m) (s.ea m)).toInt
     let hi := (s.read16 (s.memSeg m) (s.ea m + 2#16)).toInt
     (lo ≤ i ∧ i ≤ hi → Changes s t [] [] []) ∧ (i < lo ∨ hi < i → Raised s t 5#8))) ∧
  (∀ s size level, ∃ t, exec (.enterIwIb size level) s = .next t ∧
    (let n := if level.toNat % 32 = 0 then 1 else level.toNat % 32 + 1
     t.reg16 .bp = s.below 2 ∧ t.reg16 .sp = s.below (2 * n + size.toNat) ∧
     t.HoldsWord (s.seg .ss) (s.below 2) (s.reg16 .bp) ∧
     (1 < n → t.HoldsWord (s.seg .ss) (s.below (2 * n)) (s.below 2)) ∧
     (∀ k v, 1 ≤ k → k < n - 1 → s.HoldsWord (s.seg .ss) (s.reg16 .bp - BitVec.ofNat 16 (2 * k)) v →
       (∀ a ∈ wordBytes (s.seg .ss) (s.reg16 .bp - BitVec.ofNat 16 (2 * k)), a ∉ s.stackBytes (2 * n)) →
       t.HoldsWord (s.seg .ss) (s.below (2 * k + 2)) v) ∧
     Changes s t [.bp, .sp] (s.stackBytes (2 * n)) [])) ∧
  (∀ s, ∃ t, exec .leave s = .next t ∧ t.reg16 .bp = s.read16 (s.seg .ss) (s.reg16 .bp) ∧
    t.reg16 .sp = s.reg16 .bp + 2#16 ∧ Changes s t [.sp, .bp] [] [])

/-- What a push, call or frame instruction puts on the stack its partner takes back, run in the state that it leaves
(20_memory.md R70, R71). PUSH r16 then POP r16 (R228, R231): the register pushed (for PUSH SP the decremented SP) is
in the register popped, and SP is back unless it is the one popped. PUSHF then POPF (R247, R248): all nine flags and
SP are back. Near CALL, direct or indirect, then RET (R276, R277, R281): IP is at the return address and SP is back.
Far CALL, direct or indirect, then RETF (R278, R279, R283): CS and IP are the return address and SP is back. PUSHA
then POPA (R381, R382): all eight registers are back. ENTER at every level, then LEAVE (R390, R391): BP and SP are
back. -/
def Obligations.StackRoundTrips : Prop :=
  (∀ s r q t u, exec (.pushR16 r) s = .next t → exec (.popR16 q) t = .next u →
    u.reg16 q = (if r = .sp then s.below 2 else s.reg16 r) ∧ (q ≠ .sp → u.reg16 .sp = s.reg16 .sp)) ∧
  (∀ s t u, exec .pushf s = .next t → exec .popf t = .next u → u.flags = s.flags ∧ u.reg16 .sp = s.reg16 .sp) ∧
  (∀ s d t u, exec (.callCw d) s = .next t → exec .ret t = .next u → u.ip = s.ip ∧ u.reg16 .sp = s.reg16 .sp) ∧
  (∀ s e t u, exec (.callEw e) s = .next t → exec .ret t = .next u → u.ip = s.ip ∧ u.reg16 .sp = s.reg16 .sp) ∧
  (∀ s off sel t u, exec (.callFar off sel) s = .next t → exec .retf t = .next u →
    u.ip = s.ip ∧ u.seg .cs = s.seg .cs ∧ u.reg16 .sp = s.reg16 .sp) ∧
  (∀ s m t u, exec (.callM m) s = .next t → exec .retf t = .next u →
    u.ip = s.ip ∧ u.seg .cs = s.seg .cs ∧ u.reg16 .sp = s.reg16 .sp) ∧
  (∀ s t u, exec .pusha s = .next t → exec .popa t = .next u → ∀ r, u.reg16 r = s.reg16 r) ∧
  (∀ s size level t u, exec (.enterIwIb size level) s = .next t → exec .leave t = .next u →
    u.reg16 .bp = s.reg16 .bp ∧ u.reg16 .sp = s.reg16 .sp)

/-- IRET is the inverse of interrupt entry (R300, 60_exceptions.md R422): run in the state that an entry through the
vector leaves, it restores IP, CS, all nine flags and every general register, SP among them. -/
def Obligations.InterruptThenIret : Prop :=
  ∀ (s t u : State) (n : Byte), s.handler.getLsbD n.toNat = false → exec (.intIb n) s = .next t → exec .iret t = .next u →
    u.ip = s.ip ∧ u.flags = s.flags ∧ (∀ r, u.seg r = s.seg r) ∧ (∀ r, u.reg16 r = s.reg16 r) ∧
      ∀ a, a ∉ s.stackBytes 6 → u.mem.read a = s.mem.read a

/-- The default stub (60_exceptions.md R417): an INT to an unregistered vector whose entry names a byte CFH takes two
steps, the entry and the IRET, and leaves every register, flag and SP as before, with only the six bytes below SP
overwritten. -/
def Obligations.DefaultVectorReturns : Prop :=
  ∀ (s t u : State) (n : Byte) (stubSeg stubOff : Word), s.halted = false → s.handler.getLsbD n.toNat = false →
    s.mem.read (4 * n.toNat) = Word.lo stubOff → s.mem.read (4 * n.toNat + 1) = Word.hi stubOff →
    s.mem.read (4 * n.toNat + 2) = Word.lo stubSeg → s.mem.read (4 * n.toNat + 3) = Word.hi stubSeg →
    s.mem.read (phys stubSeg stubOff) = 0xCF#8 → phys stubSeg stubOff ∉ s.stackBytes 6 →
    (∀ k < 4, 4 * n.toNat + k ∉ s.stackBytes 6) →
    exec (.intIb n) s = .next t → step t = .next u → Changes s u [] (s.stackBytes 6) [.pfx]
end

