-- ==== Sys2Proof/Laws/Decode.lean ====
section
/-! SUPPORT. Lemmas about the decoder and the encoder: the fields of a ModRM byte, the operand of an encoding read back,
the bytes of R94 consumed one by one, and that decoding answers on any list as long as the longest instruction. -/

namespace Sys2Proof

/-! ## Fields -/

@[simp] theorem ModRM.ofByte_byte (m : ModRM) : ModRM.ofByte m.byte = m := by
  obtain ⟨a, b, c⟩ := m
  revert a b c
  decide

@[simp] theorem ModRM.byte_ofByte (b : Byte) : (ModRM.ofByte b).byte = b := by
  revert b
  decide

@[simp] theorem Reg8.ofBits_bits (r : Reg8) : Reg8.ofBits r.bits = r := by cases r <;> rfl

@[simp] theorem Reg16.ofBits_bits (r : Reg16) : Reg16.ofBits r.bits = r := by cases r <;> rfl

@[simp] theorem EABase.ofBits_bits (b : EABase) : EABase.ofBits b.bits = b := by cases b <;> rfl

@[simp] theorem SReg.ofBits?_bits (r : SReg) : SReg.ofBits? r.bits = some r := by cases r <;> rfl

@[simp] theorem Prefix.ofByte?_byte (p : Prefix) : Prefix.ofByte? p.byte = some p := by cases p <;> rfl

@[simp] theorem Reg8.bits_ofBits (n : BitVec 3) : (Reg8.ofBits n).bits = n := by revert n; decide

@[simp] theorem Reg16.bits_ofBits (n : BitVec 3) : (Reg16.ofBits n).bits = n := by revert n; decide

@[simp] theorem EABase.bits_ofBits (n : BitVec 3) : (EABase.ofBits n).bits = n := by revert n; decide

@[simp] theorem Word.ofBytes_lo_hi (w : Word) : Word.ofBytes (Word.lo w) (Word.hi w) = w := by
  apply BitVec.eq_of_getLsbD_eq
  intro i hi
  simp only [Word.ofBytes, Word.lo, Word.hi, BitVec.getLsbD_append, BitVec.getLsbD_extractLsb']
  by_cases h : i < 8
  · simp [h]
  · have h2 : 8 + (i - 8) = i := by omega
    have h3 : i - 8 < 8 := by omega
    simp [h, h2, h3]

/-- A byte that is one of R94's as the list of WellFormed has it, and as the decoder reads it. -/
theorem isPrefixByte_iff (b : Byte) : isPrefixByte b = (Prefix.ofByte? b).isSome := by
  revert b
  decide

theorem Prefix.byte_of_ofByte? {b : Byte} {p : Prefix} (h : Prefix.ofByte? b = some p) : p.byte = b := by
  revert b
  cases p <;> decide

/-! ## Pieces -/

@[simp] theorem Parse.andThen_ok {α β : Type} (a : α) (bs : List Byte) (k : α → List Byte → Parse β) :
    Parse.andThen (.ok (a, bs)) k = k a bs := rfl

@[simp] theorem fetch8_cons (b : Byte) (bs : List Byte) : fetch8 (b :: bs) = .ok (b, bs) := rfl

@[simp] theorem fetch16_cons (lo hi : Byte) (bs : List Byte) : fetch16 (lo :: hi :: bs) = .ok (Word.ofBytes lo hi, bs) := rfl

@[simp] theorem fetchModRM_byte (m : ModRM) (bs : List Byte) : fetchModRM (m.byte :: bs) = .ok (m, bs) := by
  simp [fetchModRM]

/-- The bytes of a memory operand, with any `reg` field, are read back, whatever follows. -/
theorem decodeMem_encoded (m : MemForm) (reg : BitVec 3) (rest : List Byte) (h : m.wf = true) :
    decodeMem (m.modRM reg).mod (m.modRM reg).rm (m.dispBytes ++ rest) = .ok (m, rest) := by
  cases m with
  | base b =>
    have hb : b.bits ≠ 6#3 := by cases b <;> simp_all [MemForm.wf, EABase.bits]
    simp [decodeMem, MemForm.modRM, MemForm.dispBytes, hb]
  | direct d => simp [decodeMem, MemForm.modRM, MemForm.dispBytes]
  | disp8 b d => simp [decodeMem, MemForm.modRM, MemForm.dispBytes]
  | disp16 b d => simp [decodeMem, MemForm.modRM, MemForm.dispBytes]

theorem MemForm.modRM_reg (m : MemForm) (reg : BitVec 3) : (m.modRM reg).reg = reg := by cases m <;> rfl

theorem MemForm.modRM_mod (m : MemForm) (reg : BitVec 3) : (m.modRM reg).mod ≠ 3#2 := by
  cases m <;> simp [MemForm.modRM]

/-- An entry with an `rm` operand is its opcode, a ModRM byte with the `reg` field asked for, and displacement bytes
from which the operand is read back. -/
theorem encE_shape {R : Type} {bits : R → BitVec 3} {ofBits : BitVec 3 → R} (hb : ∀ r, ofBits (bits r) = r)
    (reg : BitVec 3) (op : Byte) (e : RM R) (h : e.wf = true) :
    ∃ (m : ModRM) (disp : List Byte), encE bits reg op e = op :: m.byte :: disp ∧ m.reg = reg ∧
      ∀ rest, decodeRM ofBits m (disp ++ rest) = .ok (e, rest) := by
  cases e with
  | reg r => exact ⟨⟨3#2, reg, bits r⟩, [], rfl, rfl, fun rest => by simp [decodeRM, hb]⟩
  | mem m =>
    refine ⟨m.modRM reg, m.dispBytes, rfl, m.modRM_reg reg, fun rest => ?_⟩
    simp [decodeRM, m.modRM_mod reg, decodeMem_encoded m reg rest h]

theorem encE_eb (reg : BitVec 3) (op : Byte) (e : Eb) (h : e.wf = true) :
    ∃ (m : ModRM) (disp : List Byte), encE Reg8.bits reg op e = op :: m.byte :: disp ∧ m.reg = reg ∧
      ∀ rest, decodeEb m (disp ++ rest) = .ok (e, rest) :=
  encE_shape Reg8.ofBits_bits reg op e h

theorem encE_ew (reg : BitVec 3) (op : Byte) (e : Ew) (h : e.wf = true) :
    ∃ (m : ModRM) (disp : List Byte), encE Reg16.bits reg op e = op :: m.byte :: disp ∧ m.reg = reg ∧
      ∀ rest, decodeEw m (disp ++ rest) = .ok (e, rest) :=
  encE_shape Reg16.ofBits_bits reg op e h

theorem encM_shape (reg : BitVec 3) (op : Byte) (f : MemForm) (h : f.wf = true) :
    ∃ (m : ModRM) (disp : List Byte), encM reg op f = op :: m.byte :: disp ∧ m.reg = reg ∧ m.mod ≠ 3#2 ∧
      ∀ rest, decodeMem m.mod m.rm (disp ++ rest) = .ok (f, rest) :=
  ⟨f.modRM reg, f.dispBytes, rfl, f.modRM_reg reg, f.modRM_mod reg, fun rest => decodeMem_encoded f reg rest h⟩

/-! ## The bytes of R94 -/

/-- Up to `MAX_PREFIX` bytes of R94 are consumed and remembered, and decoding goes on with the next byte. -/
theorem decodeFrom_prefixes (isa186 : Bool) (ps seen : List Prefix) (bs : List Byte)
    (h : seen.length + ps.length ≤ Config.maxPrefix) :
    decodeFrom isa186 seen (ps.map Prefix.byte ++ bs) = decodeFrom isa186 (ps.reverse ++ seen) bs := by
  induction ps generalizing seen with
  | nil => rfl
  | cons p ps ih =>
    have h1 : seen.length < Config.maxPrefix := by simp at h; omega
    have h2 : (p :: seen).length + ps.length ≤ Config.maxPrefix := by simp at h ⊢; omega
    simp only [List.map_cons, List.cons_append, decodeFrom, Prefix.ofByte?_byte, h1, if_true, ih _ h2,
      List.reverse_cons, List.append_assoc, List.nil_append]

/-- After them the opcode byte decides. -/
theorem decode_prefixes (isa186 : Bool) (ps : List Prefix) (op : Byte) (bs : List Byte)
    (h : ps.length ≤ Config.maxPrefix) (hop : Prefix.ofByte? op = none) :
    decode isa186 (ps.map Prefix.byte ++ op :: bs) =
      (decodeOpcode isa186 op bs).andThen fun i bs => .ok (⟨ps, i⟩, bs) := by
  rw [decode, decodeFrom_prefixes isa186 ps [] _ (by simpa using h)]
  simp [decodeFrom, hop]

/-! ## Decoding answers -/

/-- A parser that, given at least `n` bytes, answers and consumes at most `n` of them. -/
def Reads {α : Type} (n : Nat) (f : List Byte → Parse α) : Prop :=
  ∀ bs, n ≤ bs.length → ∃ a rest, f bs = .ok (a, rest) ∧ bs.length ≤ rest.length + n

theorem Reads.ok {α : Type} (a : α) : Reads 0 (fun bs => (.ok (a, bs) : Parse α)) :=
  fun bs _ => ⟨a, bs, rfl, by omega⟩

theorem Reads.mono {α : Type} {n k : Nat} {f : List Byte → Parse α} (h : Reads n f) (hk : n ≤ k) : Reads k f :=
  fun bs hb => by
    obtain ⟨a, rest, e, hl⟩ := h bs (by omega)
    exact ⟨a, rest, e, by omega⟩

theorem Reads.andThen {α β : Type} {n k : Nat} {f : List Byte → Parse α} {g : α → List Byte → Parse β}
    (hf : Reads n f) (hg : ∀ a, Reads k (g a)) : Reads (n + k) (fun bs => (f bs).andThen g) := fun bs hb => by
  obtain ⟨a, rest, e, hl⟩ := hf bs (by omega)
  obtain ⟨b, rest2, e2, hl2⟩ := hg a rest (by omega)
  exact ⟨b, rest2, by dsimp only; rw [e]; exact e2, by omega⟩

theorem reads_fetch8 : Reads 1 fetch8
  | [], h => by simp at h
  | b :: bs, _ => ⟨b, bs, rfl, by simp⟩

theorem reads_fetch16 : Reads 2 fetch16
  | [], h => by simp at h
  | [_], h => by simp at h
  | lo :: hi :: bs, _ => ⟨Word.ofBytes lo hi, bs, rfl, by simp⟩

theorem reads_decodeMem (mod : BitVec 2) (rm : BitVec 3) : Reads 2 (decodeMem mod rm) := by
  intro bs hb
  rw [decodeMem]
  split
  · split
    · exact (reads_fetch16.andThen fun d => Reads.ok (MemForm.direct d)) bs hb
    · exact ((Reads.ok _).mono (by omega)) bs hb
  · split
    · exact ((reads_fetch8.andThen fun d => Reads.ok (MemForm.disp8 (EABase.ofBits rm) d)).mono (by omega)) bs hb
    · exact (reads_fetch16.andThen fun d => Reads.ok (MemForm.disp16 (EABase.ofBits rm) d)) bs hb

theorem reads_decodeRM {R : Type} (reg : BitVec 3 → R) (m : ModRM) : Reads 2 (decodeRM reg m) := by
  intro bs hb
  rw [decodeRM]
  split
  · exact ((Reads.ok _).mono (by omega)) bs hb
  · exact ((reads_decodeMem m.mod m.rm).andThen fun f => Reads.ok (RM.mem f)) bs hb

theorem reads_modRM {α : Type} {n : Nat} {g : ModRM → List Byte → Parse α} (hg : ∀ m, Reads n (g m)) :
    Reads (1 + n) (fun bs => (fetchModRM bs).andThen g) :=
  (reads_fetch8.andThen fun b => Reads.ok (ModRM.ofByte b)).andThen hg

theorem reads_op0 (i : Instr) : Reads 5 (op0 i) := (Reads.ok i).mono (by omega)
theorem reads_invalid1 (op : Byte) : Reads 5 (invalid1 op) := (Reads.ok _).mono (by omega)
theorem reads_opIb (mk : Byte → Instr) : Reads 5 (opIb mk) :=
  (reads_fetch8.andThen fun b => Reads.ok (mk b)).mono (by omega)
theorem reads_opIw (mk : Word → Instr) : Reads 5 (opIw mk) :=
  (reads_fetch16.andThen fun b => Reads.ok (mk b)).mono (by omega)
theorem reads_opPtr (mk : Word → Word → Instr) : Reads 5 (opPtr mk) :=
  (reads_fetch16.andThen fun a => reads_fetch16.andThen fun b => Reads.ok (mk a b)).mono (by omega)
theorem reads_opIwIb (mk : Word → Byte → Instr) : Reads 5 (opIwIb mk) :=
  (reads_fetch16.andThen fun a => reads_fetch8.andThen fun b => Reads.ok (mk a b)).mono (by omega)
theorem reads_invalid2 (op : Byte) (m : ModRM) : Reads 4 (invalid2 op m) := (Reads.ok _).mono (by omega)
theorem reads_opEb (mk : Eb → Instr) (m : ModRM) : Reads 4 (opEb mk m) :=
  ((reads_decodeRM Reg8.ofBits m).andThen fun e => Reads.ok (mk e)).mono (by omega)
theorem reads_opEw (mk : Ew → Instr) (m : ModRM) : Reads 4 (opEw mk m) :=
  ((reads_decodeRM Reg16.ofBits m).andThen fun e => Reads.ok (mk e)).mono (by omega)
theorem reads_opEbIb (mk : Eb → Byte → Instr) (m : ModRM) : Reads 4 (opEbIb mk m) :=
  ((reads_decodeRM Reg8.ofBits m).andThen fun e => reads_fetch8.andThen fun b => Reads.ok (mk e b)).mono (by omega)
theorem reads_opEwIb (mk : Ew → Byte → Instr) (m : ModRM) : Reads 4 (opEwIb mk m) :=
  ((reads_decodeRM Reg16.ofBits m).andThen fun e => reads_fetch8.andThen fun b => Reads.ok (mk e b)).mono (by omega)
theorem reads_opEwIw (mk : Ew → Word → Instr) (m : ModRM) : Reads 4 (opEwIw mk m) :=
  ((reads_decodeRM Reg16.ofBits m).andThen fun e => reads_fetch16.andThen fun b => Reads.ok (mk e b)).mono (by omega)
theorem reads_opMem (op : Byte) (mk : MemForm → Instr) (m : ModRM) : Reads 4 (opMem op mk m) := by
  intro bs hb
  rw [opMem]
  split
  · exact reads_invalid2 op m bs hb
  · exact (((reads_decodeMem m.mod m.rm).andThen fun f => Reads.ok (mk f)).mono (by omega)) bs hb
theorem reads_opEbGb (mk : Eb → Reg8 → Instr) : Reads 5 (opEbGb mk) := reads_modRM fun m => reads_opEb _ m
theorem reads_opEwGw (mk : Ew → Reg16 → Instr) : Reads 5 (opEwGw mk) := reads_modRM fun m => reads_opEw _ m
theorem reads_opGwM (op : Byte) (mk : Reg16 → MemForm → Instr) : Reads 5 (opGwM op mk) :=
  reads_modRM fun m => reads_opMem op _ m
theorem reads_opEsc (n : BitVec 3) : Reads 5 (opEsc n) := reads_modRM fun m => reads_opEw _ m
theorem reads_opImulIw : Reads 5 opImulIw := reads_modRM fun m => reads_opEwIw _ m
theorem reads_opImulIb : Reads 5 opImulIb := reads_modRM fun m => reads_opEwIb _ m

theorem reads_group1Eb : Reads 5 group1Eb :=
  reads_modRM (n := 4) fun m bs hb => by split <;> exact reads_opEbIb _ m bs hb
theorem reads_group1EwIw : Reads 5 group1EwIw :=
  reads_modRM (n := 4) fun m bs hb => by split <;> exact reads_opEwIw _ m bs hb
theorem reads_group1EwIb : Reads 5 group1EwIb :=
  reads_modRM (n := 4) fun m bs hb => by split <;> exact reads_opEwIb _ m bs hb
theorem reads_group2Eb1 : Reads 5 group2Eb1 :=
  reads_modRM (n := 4) fun m bs hb => by
    split <;> first | exact reads_opEb _ m bs hb | exact reads_invalid2 _ m bs hb
theorem reads_group2Ew1 : Reads 5 group2Ew1 :=
  reads_modRM (n := 4) fun m bs hb => by
    split <;> first | exact reads_opEw _ m bs hb | exact reads_invalid2 _ m bs hb
theorem reads_group2EbCl : Reads 5 group2EbCl :=
  reads_modRM (n := 4) fun m bs hb => by
    split <;> first | exact reads_opEb _ m bs hb | exact reads_invalid2 _ m bs hb
theorem reads_group2EwCl : Reads 5 group2EwCl :=
  reads_modRM (n := 4) fun m bs hb => by
    split <;> first | exact reads_opEw _ m bs hb | exact reads_invalid2 _ m bs hb
theorem reads_group2EbIb : Reads 5 group2EbIb :=
  reads_modRM (n := 4) fun m bs hb => by
    split <;> first | exact reads_opEbIb _ m bs hb | exact reads_invalid2 _ m bs hb
theorem reads_group2EwIb : Reads 5 group2EwIb :=
  reads_modRM (n := 4) fun m bs hb => by
    split <;> first | exact reads_opEwIb _ m bs hb | exact reads_invalid2 _ m bs hb
theorem reads_group3Eb : Reads 5 group3Eb :=
  reads_modRM (n := 4) fun m bs hb => by
    split <;> first | exact reads_opEb _ m bs hb | exact reads_opEbIb _ m bs hb | exact reads_invalid2 _ m bs hb
theorem reads_group3Ew : Reads 5 group3Ew :=
  reads_modRM (n := 4) fun m bs hb => by
    split <;> first | exact reads_opEw _ m bs hb | exact reads_opEwIw _ m bs hb | exact reads_invalid2 _ m bs hb
theorem reads_group4 : Reads 5 group4 :=
  reads_modRM (n := 4) fun m bs hb => by
    split <;> first | exact reads_opEb _ m bs hb | exact reads_invalid2 _ m bs hb
theorem reads_group5 : Reads 5 group5 :=
  reads_modRM (n := 4) fun m bs hb => by
    split <;> first | exact reads_opEw _ m bs hb | exact reads_opMem _ _ m bs hb | exact reads_invalid2 _ m bs hb
theorem reads_movFromSReg : Reads 5 movFromSReg :=
  reads_modRM (n := 4) fun m bs hb => by
    split <;> first | exact reads_opEw _ m bs hb | exact reads_invalid2 _ m bs hb
theorem reads_movToSReg : Reads 5 movToSReg :=
  reads_modRM (n := 4) fun m bs hb => by
    split <;> first | exact reads_opEw _ m bs hb | exact reads_invalid2 _ m bs hb
theorem reads_group8F : Reads 5 group8F :=
  reads_modRM (n := 4) fun m bs hb => by
    split <;> first | exact reads_opEw _ m bs hb | exact reads_invalid2 _ m bs hb
theorem reads_groupC6 : Reads 5 groupC6 :=
  reads_modRM (n := 4) fun m bs hb => by
    split <;> first | exact reads_opEbIb _ m bs hb | exact reads_invalid2 _ m bs hb
theorem reads_groupC7 : Reads 5 groupC7 :=
  reads_modRM (n := 4) fun m bs hb => by
    split <;> first | exact reads_opEwIw _ m bs hb | exact reads_invalid2 _ m bs hb

theorem reads_decode0 (lo : BitVec 4) : Reads 5 (decode0 lo) := by
  intro bs hb; unfold decode0
  split <;> first
    | exact reads_opEbGb _ bs hb | exact reads_opEwGw _ bs hb | exact reads_opIb _ bs hb | exact reads_opIw _ bs hb
    | exact reads_op0 _ bs hb
theorem reads_decode1 (lo : BitVec 4) : Reads 5 (decode1 lo) := by
  intro bs hb; unfold decode1
  split <;> first
    | exact reads_opEbGb _ bs hb | exact reads_opEwGw _ bs hb | exact reads_opIb _ bs hb | exact reads_opIw _ bs hb
    | exact reads_op0 _ bs hb
theorem reads_decode2 (lo : BitVec 4) : Reads 5 (decode2 lo) := by
  intro bs hb; unfold decode2
  split <;> first
    | exact reads_opEbGb _ bs hb | exact reads_opEwGw _ bs hb | exact reads_opIb _ bs hb | exact reads_opIw _ bs hb
    | exact reads_op0 _ bs hb
theorem reads_decode3 (lo : BitVec 4) : Reads 5 (decode3 lo) := by
  intro bs hb; unfold decode3
  split <;> first
    | exact reads_opEbGb _ bs hb | exact reads_opEwGw _ bs hb | exact reads_opIb _ bs hb | exact reads_opIw _ bs hb
    | exact reads_op0 _ bs hb
theorem reads_decode4 (lo : BitVec 4) : Reads 5 (decode4 lo) := by
  intro bs hb; unfold decode4; split <;> exact reads_op0 _ bs hb
theorem reads_decode5 (lo : BitVec 4) : Reads 5 (decode5 lo) := by
  intro bs hb; unfold decode5; split <;> exact reads_op0 _ bs hb
theorem reads_decode6 (lo : BitVec 4) : Reads 5 (decode6 lo) := by
  intro bs hb; unfold decode6
  split <;> first
    | exact reads_opGwM _ _ bs hb | exact reads_opImulIw bs hb | exact reads_opImulIb bs hb | exact reads_opIb _ bs hb
    | exact reads_opIw _ bs hb | exact reads_op0 _ bs hb
theorem reads_decode7 (lo : BitVec 4) : Reads 5 (decode7 lo) := by
  intro bs hb; unfold decode7; split <;> exact reads_opIb _ bs hb
theorem reads_decode8 (lo : BitVec 4) : Reads 5 (decode8 lo) := by
  intro bs hb; unfold decode8
  split <;> first
    | exact reads_group1Eb bs hb | exact reads_group1EwIw bs hb | exact reads_group1EwIb bs hb
    | exact reads_opEbGb _ bs hb | exact reads_opEwGw _ bs hb | exact reads_movFromSReg bs hb
    | exact reads_opGwM _ _ bs hb | exact reads_movToSReg bs hb | exact reads_group8F bs hb
theorem reads_decode9 (lo : BitVec 4) : Reads 5 (decode9 lo) := by
  intro bs hb; unfold decode9; split <;> first | exact reads_op0 _ bs hb | exact reads_opPtr _ bs hb
theorem reads_decodeA (lo : BitVec 4) : Reads 5 (decodeA lo) := by
  intro bs hb; unfold decodeA
  split <;> first | exact reads_op0 _ bs hb | exact reads_opIw _ bs hb | exact reads_opIb _ bs hb
theorem reads_decodeB (lo : BitVec 4) : Reads 5 (decodeB lo) := by
  intro bs hb; unfold decodeB; split <;> first | exact reads_opIw _ bs hb | exact reads_opIb _ bs hb
theorem reads_decodeC (isa186 : Bool) (lo : BitVec 4) : Reads 5 (decodeC isa186 lo) := by
  intro bs hb
  cases isa186 <;> (unfold decodeC; split <;> first
    | exact reads_group2EbIb bs hb | exact reads_group2EwIb bs hb | exact reads_opIw _ bs hb | exact reads_op0 _ bs hb
    | exact reads_opGwM _ _ bs hb | exact reads_groupC6 bs hb | exact reads_groupC7 bs hb | exact reads_opIwIb _ bs hb
    | exact reads_opIb _ bs hb)
theorem reads_decodeD (lo : BitVec 4) : Reads 5 (decodeD lo) := by
  intro bs hb; unfold decodeD
  split <;> first
    | exact reads_group2Eb1 bs hb | exact reads_group2Ew1 bs hb | exact reads_group2EbCl bs hb
    | exact reads_group2EwCl bs hb | exact reads_opIb _ bs hb | exact reads_invalid1 _ bs hb | exact reads_op0 _ bs hb
    | exact reads_opEsc _ bs hb
theorem reads_decodeE (lo : BitVec 4) : Reads 5 (decodeE lo) := by
  intro bs hb; unfold decodeE
  split <;> first
    | exact reads_opIb _ bs hb | exact reads_opIw _ bs hb | exact reads_opPtr _ bs hb | exact reads_op0 _ bs hb
theorem reads_decodeF (lo : BitVec 4) : Reads 5 (decodeF lo) := by
  intro bs hb; unfold decodeF
  split <;> first
    | exact reads_op0 _ bs hb | exact reads_invalid1 _ bs hb | exact reads_group3Eb bs hb | exact reads_group3Ew bs hb
    | exact reads_group4 bs hb | exact reads_group5 bs hb

/-- After the opcode byte at most five bytes are read (R93). -/
theorem reads_decodeOpcode (isa186 : Bool) (op : Byte) : Reads 5 (decodeOpcode isa186 op) := by
  intro bs hb
  unfold decodeOpcode
  extract_lets lo hi
  generalize hi = hi
  split
  · exact reads_decode0 _ bs hb
  · exact reads_decode1 _ bs hb
  · exact reads_decode2 _ bs hb
  · exact reads_decode3 _ bs hb
  · exact reads_decode4 _ bs hb
  · exact reads_decode5 _ bs hb
  · split
    · exact reads_decode6 _ bs hb
    · exact reads_invalid1 _ bs hb
  · exact reads_decode7 _ bs hb
  · exact reads_decode8 _ bs hb
  · exact reads_decode9 _ bs hb
  · exact reads_decodeA _ bs hb
  · exact reads_decodeB _ bs hb
  · exact reads_decodeC _ _ bs hb
  · exact reads_decodeD _ bs hb
  · exact reads_decodeE _ bs hb
  · exact reads_decodeF _ bs hb

/-- With `k` bytes of R94 seen, the rest of the longest instruction is enough. -/
theorem reads_decodeFrom (isa186 : Bool) (k : Nat) (seen : List Prefix) (h : seen.length + k = Config.maxPrefix) :
    Reads (k + 6) (decodeFrom isa186 seen) := by
  induction k generalizing seen with
  | zero =>
    intro bs hb
    match bs, hb with
    | b :: bs, hb =>
      rw [decodeFrom]
      split
      · rename_i p _
        rw [if_neg (by omega)]
        exact ⟨_, bs, rfl, by simp⟩
      · obtain ⟨i, rest, e, hl⟩ := reads_decodeOpcode isa186 b bs (by simp at hb; omega)
        exact ⟨⟨seen.reverse, i⟩, rest, by rw [e]; rfl, by simp; omega⟩
  | succ k ih =>
    intro bs hb
    match bs, hb with
    | b :: bs, hb =>
      rw [decodeFrom]
      split
      · rename_i p _
        rw [if_pos (by omega)]
        obtain ⟨d, rest, e, hl⟩ := ih (p :: seen) (by simp; omega) bs (by simp at hb; omega)
        exact ⟨d, rest, e, by simp; omega⟩
      · obtain ⟨i, rest, e, hl⟩ := reads_decodeOpcode isa186 b bs (by simp at hb; omega)
        exact ⟨⟨seen.reverse, i⟩, rest, by rw [e]; rfl, by simp; omega⟩

/-- Decoding answers on any bytes as many as the longest instruction has. -/
theorem decode_answers (isa186 : Bool) (bs : List Byte) (h : maxLength ≤ bs.length) :
    ∃ d rest, decode isa186 bs = .ok (d, rest) ∧ bs.length ≤ rest.length + maxLength :=
  reads_decodeFrom isa186 Config.maxPrefix [] (by simp) bs h

end Sys2Proof

namespace Sys2Proof.Machine

@[simp] theorem length_fetchFrom (s : State) (k n : Nat) : (s.fetchFrom k n).length = n := by
  induction n generalizing k with
  | zero => rfl
  | succ n ih => simp [State.fetchFrom, ih]

@[simp] theorem length_fetch (s : State) : s.fetch.length = maxLength := length_fetchFrom s 0 maxLength

/-- The fetch always decodes: `Refusal.truncatedFetch` is never raised (log entry 9). -/
theorem fetch_decodes (s : State) : ∃ d len, s.decodeNext = .ok (d, len) := by
  obtain ⟨d, rest, e, -⟩ := decode_answers s.isa186 s.fetch (by simp)
  exact ⟨d, maxLength - rest.length, by rw [State.decodeNext, e]⟩

end Sys2Proof.Machine
end

