-- ==== Sys2Proof/Laws/State.lean ====
section
/-! SUPPORT. One lemma per field per update of the state, each true by `rfl`: a later proof never unfolds a record
update. -/

namespace Sys2Proof.Machine

variable (s : State)

/-! ### `setReg16` -/

@[simp] theorem State.setReg16_regs (r : Reg16) (v : Word) : (s.setReg16 r v).regs = s.regs.set r v := rfl
@[simp] theorem State.setReg16_segs (r : Reg16) (v : Word) : (s.setReg16 r v).segs = s.segs := rfl
@[simp] theorem State.setReg16_ip (r : Reg16) (v : Word) : (s.setReg16 r v).ip = s.ip := rfl
@[simp] theorem State.setReg16_flags (r : Reg16) (v : Word) : (s.setReg16 r v).flags = s.flags := rfl
@[simp] theorem State.setReg16_vm (r : Reg16) (v : Word) : (s.setReg16 r v).vm = s.vm := rfl
@[simp] theorem State.setReg16_handler (r : Reg16) (v : Word) : (s.setReg16 r v).handler = s.handler := rfl
@[simp] theorem State.setReg16_halted (r : Reg16) (v : Word) : (s.setReg16 r v).halted = s.halted := rfl
@[simp] theorem State.setReg16_mem (r : Reg16) (v : Word) : (s.setReg16 r v).mem = s.mem := rfl
@[simp] theorem State.setReg16_isa186 (r : Reg16) (v : Word) : (s.setReg16 r v).isa186 = s.isa186 := rfl
@[simp] theorem State.setReg16_pfx (r : Reg16) (v : Word) : (s.setReg16 r v).pfx = s.pfx := rfl
@[simp] theorem State.setReg16_draws (r : Reg16) (v : Word) : (s.setReg16 r v).draws = s.draws := rfl
@[simp] theorem State.setReg16_io (r : Reg16) (v : Word) : (s.setReg16 r v).io = s.io := rfl

/-! ### `setReg8` -/

@[simp] theorem State.setReg8_segs (r : Reg8) (v : Byte) : (s.setReg8 r v).segs = s.segs := rfl
@[simp] theorem State.setReg8_ip (r : Reg8) (v : Byte) : (s.setReg8 r v).ip = s.ip := rfl
@[simp] theorem State.setReg8_flags (r : Reg8) (v : Byte) : (s.setReg8 r v).flags = s.flags := rfl
@[simp] theorem State.setReg8_vm (r : Reg8) (v : Byte) : (s.setReg8 r v).vm = s.vm := rfl
@[simp] theorem State.setReg8_handler (r : Reg8) (v : Byte) : (s.setReg8 r v).handler = s.handler := rfl
@[simp] theorem State.setReg8_halted (r : Reg8) (v : Byte) : (s.setReg8 r v).halted = s.halted := rfl
@[simp] theorem State.setReg8_mem (r : Reg8) (v : Byte) : (s.setReg8 r v).mem = s.mem := rfl
@[simp] theorem State.setReg8_isa186 (r : Reg8) (v : Byte) : (s.setReg8 r v).isa186 = s.isa186 := rfl
@[simp] theorem State.setReg8_pfx (r : Reg8) (v : Byte) : (s.setReg8 r v).pfx = s.pfx := rfl
@[simp] theorem State.setReg8_draws (r : Reg8) (v : Byte) : (s.setReg8 r v).draws = s.draws := rfl
@[simp] theorem State.setReg8_io (r : Reg8) (v : Byte) : (s.setReg8 r v).io = s.io := rfl

/-! ### `setSeg` -/

@[simp] theorem State.setSeg_regs (r : SReg) (v : Word) : (s.setSeg r v).regs = s.regs := rfl
@[simp] theorem State.setSeg_segs (r : SReg) (v : Word) : (s.setSeg r v).segs = s.segs.set r v := rfl
@[simp] theorem State.setSeg_ip (r : SReg) (v : Word) : (s.setSeg r v).ip = s.ip := rfl
@[simp] theorem State.setSeg_flags (r : SReg) (v : Word) : (s.setSeg r v).flags = s.flags := rfl
@[simp] theorem State.setSeg_vm (r : SReg) (v : Word) : (s.setSeg r v).vm = s.vm := rfl
@[simp] theorem State.setSeg_handler (r : SReg) (v : Word) : (s.setSeg r v).handler = s.handler := rfl
@[simp] theorem State.setSeg_halted (r : SReg) (v : Word) : (s.setSeg r v).halted = s.halted := rfl
@[simp] theorem State.setSeg_mem (r : SReg) (v : Word) : (s.setSeg r v).mem = s.mem := rfl
@[simp] theorem State.setSeg_isa186 (r : SReg) (v : Word) : (s.setSeg r v).isa186 = s.isa186 := rfl
@[simp] theorem State.setSeg_pfx (r : SReg) (v : Word) : (s.setSeg r v).pfx = s.pfx := rfl
@[simp] theorem State.setSeg_draws (r : SReg) (v : Word) : (s.setSeg r v).draws = s.draws := rfl
@[simp] theorem State.setSeg_io (r : SReg) (v : Word) : (s.setSeg r v).io = s.io := rfl

/-! ### `setIp` -/

@[simp] theorem State.setIp_regs (v : Word) : (s.setIp v).regs = s.regs := rfl
@[simp] theorem State.setIp_segs (v : Word) : (s.setIp v).segs = s.segs := rfl
@[simp] theorem State.setIp_ip (v : Word) : (s.setIp v).ip = v := rfl
@[simp] theorem State.setIp_flags (v : Word) : (s.setIp v).flags = s.flags := rfl
@[simp] theorem State.setIp_vm (v : Word) : (s.setIp v).vm = s.vm := rfl
@[simp] theorem State.setIp_handler (v : Word) : (s.setIp v).handler = s.handler := rfl
@[simp] theorem State.setIp_halted (v : Word) : (s.setIp v).halted = s.halted := rfl
@[simp] theorem State.setIp_mem (v : Word) : (s.setIp v).mem = s.mem := rfl
@[simp] theorem State.setIp_isa186 (v : Word) : (s.setIp v).isa186 = s.isa186 := rfl
@[simp] theorem State.setIp_pfx (v : Word) : (s.setIp v).pfx = s.pfx := rfl
@[simp] theorem State.setIp_draws (v : Word) : (s.setIp v).draws = s.draws := rfl
@[simp] theorem State.setIp_io (v : Word) : (s.setIp v).io = s.io := rfl

/-! ### `setFlags` -/

@[simp] theorem State.setFlags_regs (f : Flags) : (s.setFlags f).regs = s.regs := rfl
@[simp] theorem State.setFlags_segs (f : Flags) : (s.setFlags f).segs = s.segs := rfl
@[simp] theorem State.setFlags_ip (f : Flags) : (s.setFlags f).ip = s.ip := rfl
@[simp] theorem State.setFlags_flags (f : Flags) : (s.setFlags f).flags = f := rfl
@[simp] theorem State.setFlags_vm (f : Flags) : (s.setFlags f).vm = s.vm := rfl
@[simp] theorem State.setFlags_handler (f : Flags) : (s.setFlags f).handler = s.handler := rfl
@[simp] theorem State.setFlags_halted (f : Flags) : (s.setFlags f).halted = s.halted := rfl
@[simp] theorem State.setFlags_mem (f : Flags) : (s.setFlags f).mem = s.mem := rfl
@[simp] theorem State.setFlags_isa186 (f : Flags) : (s.setFlags f).isa186 = s.isa186 := rfl
@[simp] theorem State.setFlags_pfx (f : Flags) : (s.setFlags f).pfx = s.pfx := rfl
@[simp] theorem State.setFlags_draws (f : Flags) : (s.setFlags f).draws = s.draws := rfl
@[simp] theorem State.setFlags_io (f : Flags) : (s.setFlags f).io = s.io := rfl

/-! ### `setPfx` -/

@[simp] theorem State.setPfx_regs (p : Pfx) : (s.setPfx p).regs = s.regs := rfl
@[simp] theorem State.setPfx_segs (p : Pfx) : (s.setPfx p).segs = s.segs := rfl
@[simp] theorem State.setPfx_ip (p : Pfx) : (s.setPfx p).ip = s.ip := rfl
@[simp] theorem State.setPfx_flags (p : Pfx) : (s.setPfx p).flags = s.flags := rfl
@[simp] theorem State.setPfx_vm (p : Pfx) : (s.setPfx p).vm = s.vm := rfl
@[simp] theorem State.setPfx_handler (p : Pfx) : (s.setPfx p).handler = s.handler := rfl
@[simp] theorem State.setPfx_halted (p : Pfx) : (s.setPfx p).halted = s.halted := rfl
@[simp] theorem State.setPfx_mem (p : Pfx) : (s.setPfx p).mem = s.mem := rfl
@[simp] theorem State.setPfx_isa186 (p : Pfx) : (s.setPfx p).isa186 = s.isa186 := rfl
@[simp] theorem State.setPfx_pfx (p : Pfx) : (s.setPfx p).pfx = p := rfl
@[simp] theorem State.setPfx_draws (p : Pfx) : (s.setPfx p).draws = s.draws := rfl
@[simp] theorem State.setPfx_io (p : Pfx) : (s.setPfx p).io = s.io := rfl

/-! ### `halt` -/

@[simp] theorem State.halt_regs : (s.halt).regs = s.regs := rfl
@[simp] theorem State.halt_segs : (s.halt).segs = s.segs := rfl
@[simp] theorem State.halt_ip : (s.halt).ip = s.ip := rfl
@[simp] theorem State.halt_flags : (s.halt).flags = s.flags := rfl
@[simp] theorem State.halt_vm : (s.halt).vm = s.vm := rfl
@[simp] theorem State.halt_handler : (s.halt).handler = s.handler := rfl
@[simp] theorem State.halt_halted : (s.halt).halted = true := rfl
@[simp] theorem State.halt_mem : (s.halt).mem = s.mem := rfl
@[simp] theorem State.halt_isa186 : (s.halt).isa186 = s.isa186 := rfl
@[simp] theorem State.halt_pfx : (s.halt).pfx = s.pfx := rfl
@[simp] theorem State.halt_draws : (s.halt).draws = s.draws := rfl
@[simp] theorem State.halt_io : (s.halt).io = s.io := rfl

/-! ### `drew` -/

@[simp] theorem State.drew_regs (k : Nat) : (s.drew k).regs = s.regs := rfl
@[simp] theorem State.drew_segs (k : Nat) : (s.drew k).segs = s.segs := rfl
@[simp] theorem State.drew_ip (k : Nat) : (s.drew k).ip = s.ip := rfl
@[simp] theorem State.drew_flags (k : Nat) : (s.drew k).flags = s.flags := rfl
@[simp] theorem State.drew_vm (k : Nat) : (s.drew k).vm = s.vm := rfl
@[simp] theorem State.drew_handler (k : Nat) : (s.drew k).handler = s.handler := rfl
@[simp] theorem State.drew_halted (k : Nat) : (s.drew k).halted = s.halted := rfl
@[simp] theorem State.drew_mem (k : Nat) : (s.drew k).mem = s.mem := rfl
@[simp] theorem State.drew_isa186 (k : Nat) : (s.drew k).isa186 = s.isa186 := rfl
@[simp] theorem State.drew_pfx (k : Nat) : (s.drew k).pfx = s.pfx := rfl
@[simp] theorem State.drew_draws (k : Nat) : (s.drew k).draws = s.draws + k := rfl
@[simp] theorem State.drew_io (k : Nat) : (s.drew k).io = s.io := rfl

/-! ### `logIo` -/

@[simp] theorem State.logIo_regs (e : IoEvent) : (s.logIo e).regs = s.regs := rfl
@[simp] theorem State.logIo_segs (e : IoEvent) : (s.logIo e).segs = s.segs := rfl
@[simp] theorem State.logIo_ip (e : IoEvent) : (s.logIo e).ip = s.ip := rfl
@[simp] theorem State.logIo_flags (e : IoEvent) : (s.logIo e).flags = s.flags := rfl
@[simp] theorem State.logIo_vm (e : IoEvent) : (s.logIo e).vm = s.vm := rfl
@[simp] theorem State.logIo_handler (e : IoEvent) : (s.logIo e).handler = s.handler := rfl
@[simp] theorem State.logIo_halted (e : IoEvent) : (s.logIo e).halted = s.halted := rfl
@[simp] theorem State.logIo_mem (e : IoEvent) : (s.logIo e).mem = s.mem := rfl
@[simp] theorem State.logIo_isa186 (e : IoEvent) : (s.logIo e).isa186 = s.isa186 := rfl
@[simp] theorem State.logIo_pfx (e : IoEvent) : (s.logIo e).pfx = s.pfx := rfl
@[simp] theorem State.logIo_draws (e : IoEvent) : (s.logIo e).draws = s.draws := rfl
@[simp] theorem State.logIo_io (e : IoEvent) : (s.logIo e).io = e :: s.io := rfl

/-! ### `write8` -/

@[simp] theorem State.write8_regs (seg off : Word) (v : Byte) : (s.write8 seg off v).regs = s.regs := rfl
@[simp] theorem State.write8_segs (seg off : Word) (v : Byte) : (s.write8 seg off v).segs = s.segs := rfl
@[simp] theorem State.write8_ip (seg off : Word) (v : Byte) : (s.write8 seg off v).ip = s.ip := rfl
@[simp] theorem State.write8_flags (seg off : Word) (v : Byte) : (s.write8 seg off v).flags = s.flags := rfl
@[simp] theorem State.write8_vm (seg off : Word) (v : Byte) : (s.write8 seg off v).vm = s.vm := rfl
@[simp] theorem State.write8_handler (seg off : Word) (v : Byte) : (s.write8 seg off v).handler = s.handler := rfl
@[simp] theorem State.write8_halted (seg off : Word) (v : Byte) : (s.write8 seg off v).halted = s.halted := rfl
@[simp] theorem State.write8_mem (seg off : Word) (v : Byte) : (s.write8 seg off v).mem = s.mem.write (phys seg off) v :=
  rfl
@[simp] theorem State.write8_isa186 (seg off : Word) (v : Byte) : (s.write8 seg off v).isa186 = s.isa186 := rfl
@[simp] theorem State.write8_pfx (seg off : Word) (v : Byte) : (s.write8 seg off v).pfx = s.pfx := rfl
@[simp] theorem State.write8_draws (seg off : Word) (v : Byte) : (s.write8 seg off v).draws = s.draws := rfl
@[simp] theorem State.write8_io (seg off : Word) (v : Byte) : (s.write8 seg off v).io = s.io := rfl

/-! ### `write16` -/

@[simp] theorem State.write16_regs (seg off v : Word) : (s.write16 seg off v).regs = s.regs := rfl
@[simp] theorem State.write16_segs (seg off v : Word) : (s.write16 seg off v).segs = s.segs := rfl
@[simp] theorem State.write16_ip (seg off v : Word) : (s.write16 seg off v).ip = s.ip := rfl
@[simp] theorem State.write16_flags (seg off v : Word) : (s.write16 seg off v).flags = s.flags := rfl
@[simp] theorem State.write16_vm (seg off v : Word) : (s.write16 seg off v).vm = s.vm := rfl
@[simp] theorem State.write16_handler (seg off v : Word) : (s.write16 seg off v).handler = s.handler := rfl
@[simp] theorem State.write16_halted (seg off v : Word) : (s.write16 seg off v).halted = s.halted := rfl
@[simp] theorem State.write16_mem (seg off v : Word) : (s.write16 seg off v).mem = (s.mem.write (phys seg off) (Word.lo v)).write (phys seg (off + 1#16)) (Word.hi v) :=
  rfl
@[simp] theorem State.write16_isa186 (seg off v : Word) : (s.write16 seg off v).isa186 = s.isa186 := rfl
@[simp] theorem State.write16_pfx (seg off v : Word) : (s.write16 seg off v).pfx = s.pfx := rfl
@[simp] theorem State.write16_draws (seg off v : Word) : (s.write16 seg off v).draws = s.draws := rfl
@[simp] theorem State.write16_io (seg off v : Word) : (s.write16 seg off v).io = s.io := rfl

/-! ### `drop16` -/

@[simp] theorem State.drop16_regs : (s.drop16).regs = s.regs.set .sp (s.regs.get .sp + 2#16) := rfl
@[simp] theorem State.drop16_segs : (s.drop16).segs = s.segs := rfl
@[simp] theorem State.drop16_ip : (s.drop16).ip = s.ip := rfl
@[simp] theorem State.drop16_flags : (s.drop16).flags = s.flags := rfl
@[simp] theorem State.drop16_vm : (s.drop16).vm = s.vm := rfl
@[simp] theorem State.drop16_handler : (s.drop16).handler = s.handler := rfl
@[simp] theorem State.drop16_halted : (s.drop16).halted = s.halted := rfl
@[simp] theorem State.drop16_mem : (s.drop16).mem = s.mem := rfl
@[simp] theorem State.drop16_isa186 : (s.drop16).isa186 = s.isa186 := rfl
@[simp] theorem State.drop16_pfx : (s.drop16).pfx = s.pfx := rfl
@[simp] theorem State.drop16_draws : (s.drop16).draws = s.draws := rfl
@[simp] theorem State.drop16_io : (s.drop16).io = s.io := rfl

/-! ### `push16` -/

@[simp] theorem State.push16_regs (v : Word) : (s.push16 v).regs = s.regs.set .sp (s.regs.get .sp - 2#16) := rfl
@[simp] theorem State.push16_segs (v : Word) : (s.push16 v).segs = s.segs := rfl
@[simp] theorem State.push16_ip (v : Word) : (s.push16 v).ip = s.ip := rfl
@[simp] theorem State.push16_flags (v : Word) : (s.push16 v).flags = s.flags := rfl
@[simp] theorem State.push16_vm (v : Word) : (s.push16 v).vm = s.vm := rfl
@[simp] theorem State.push16_handler (v : Word) : (s.push16 v).handler = s.handler := rfl
@[simp] theorem State.push16_halted (v : Word) : (s.push16 v).halted = s.halted := rfl
@[simp] theorem State.push16_isa186 (v : Word) : (s.push16 v).isa186 = s.isa186 := rfl
@[simp] theorem State.push16_pfx (v : Word) : (s.push16 v).pfx = s.pfx := rfl
@[simp] theorem State.push16_draws (v : Word) : (s.push16 v).draws = s.draws := rfl
@[simp] theorem State.push16_io (v : Word) : (s.push16 v).io = s.io := rfl

/-! ### `pushFrame` -/

@[simp] theorem State.pushFrame_segs : (s.pushFrame).segs = s.segs := rfl
@[simp] theorem State.pushFrame_ip : (s.pushFrame).ip = s.ip := rfl
@[simp] theorem State.pushFrame_flags : (s.pushFrame).flags = { s.flags with TF := false, IF := false } := rfl
@[simp] theorem State.pushFrame_vm : (s.pushFrame).vm = s.vm := rfl
@[simp] theorem State.pushFrame_handler : (s.pushFrame).handler = s.handler := rfl
@[simp] theorem State.pushFrame_halted : (s.pushFrame).halted = s.halted := rfl
@[simp] theorem State.pushFrame_isa186 : (s.pushFrame).isa186 = s.isa186 := rfl
@[simp] theorem State.pushFrame_pfx : (s.pushFrame).pfx = s.pfx := rfl
@[simp] theorem State.pushFrame_draws : (s.pushFrame).draws = s.draws := rfl
@[simp] theorem State.pushFrame_io : (s.pushFrame).io = s.io := rfl

/-! ### `afterHost` -/

@[simp] theorem State.afterHost_regs (h : HostAnswer) : (s.afterHost h).regs = h.regs := rfl
@[simp] theorem State.afterHost_segs (h : HostAnswer) : (s.afterHost h).segs = h.segs := rfl
@[simp] theorem State.afterHost_ip (h : HostAnswer) : (s.afterHost h).ip = h.ip := rfl
@[simp] theorem State.afterHost_flags (h : HostAnswer) : (s.afterHost h).flags = h.flags := rfl
@[simp] theorem State.afterHost_vm (h : HostAnswer) : (s.afterHost h).vm = s.vm := rfl
@[simp] theorem State.afterHost_handler (h : HostAnswer) : (s.afterHost h).handler = h.handler := rfl
@[simp] theorem State.afterHost_halted (h : HostAnswer) : (s.afterHost h).halted = h.halted := rfl
@[simp] theorem State.afterHost_mem (h : HostAnswer) : (s.afterHost h).mem = s.mem.storeAll h.stores := rfl
@[simp] theorem State.afterHost_isa186 (h : HostAnswer) : (s.afterHost h).isa186 = s.isa186 := rfl
@[simp] theorem State.afterHost_pfx (h : HostAnswer) : (s.afterHost h).pfx = s.pfx := rfl
@[simp] theorem State.afterHost_draws (h : HostAnswer) : (s.afterHost h).draws = s.draws := rfl
@[simp] theorem State.afterHost_io (h : HostAnswer) : (s.afterHost h).io = s.io := rfl

/-! ### `ioRead8` -/

@[simp] theorem State.ioRead8_regs (port : Word) : (s.ioRead8 port).regs = s.regs := rfl
@[simp] theorem State.ioRead8_segs (port : Word) : (s.ioRead8 port).segs = s.segs := rfl
@[simp] theorem State.ioRead8_ip (port : Word) : (s.ioRead8 port).ip = s.ip := rfl
@[simp] theorem State.ioRead8_flags (port : Word) : (s.ioRead8 port).flags = s.flags := rfl
@[simp] theorem State.ioRead8_vm (port : Word) : (s.ioRead8 port).vm = s.vm := rfl
@[simp] theorem State.ioRead8_handler (port : Word) : (s.ioRead8 port).handler = s.handler := rfl
@[simp] theorem State.ioRead8_halted (port : Word) : (s.ioRead8 port).halted = s.halted := rfl
@[simp] theorem State.ioRead8_mem (port : Word) : (s.ioRead8 port).mem = s.mem := rfl
@[simp] theorem State.ioRead8_isa186 (port : Word) : (s.ioRead8 port).isa186 = s.isa186 := rfl
@[simp] theorem State.ioRead8_pfx (port : Word) : (s.ioRead8 port).pfx = s.pfx := rfl
@[simp] theorem State.ioRead8_draws (port : Word) : (s.ioRead8 port).draws = s.draws + 1 := rfl
@[simp] theorem State.ioRead8_io (port : Word) : (s.ioRead8 port).io = .read8 port (s.ioValue8 port) :: s.io := rfl

/-! ### `ioRead16` -/

@[simp] theorem State.ioRead16_regs (port : Word) : (s.ioRead16 port).regs = s.regs := rfl
@[simp] theorem State.ioRead16_segs (port : Word) : (s.ioRead16 port).segs = s.segs := rfl
@[simp] theorem State.ioRead16_ip (port : Word) : (s.ioRead16 port).ip = s.ip := rfl
@[simp] theorem State.ioRead16_flags (port : Word) : (s.ioRead16 port).flags = s.flags := rfl
@[simp] theorem State.ioRead16_vm (port : Word) : (s.ioRead16 port).vm = s.vm := rfl
@[simp] theorem State.ioRead16_handler (port : Word) : (s.ioRead16 port).handler = s.handler := rfl
@[simp] theorem State.ioRead16_halted (port : Word) : (s.ioRead16 port).halted = s.halted := rfl
@[simp] theorem State.ioRead16_mem (port : Word) : (s.ioRead16 port).mem = s.mem := rfl
@[simp] theorem State.ioRead16_isa186 (port : Word) : (s.ioRead16 port).isa186 = s.isa186 := rfl
@[simp] theorem State.ioRead16_pfx (port : Word) : (s.ioRead16 port).pfx = s.pfx := rfl
@[simp] theorem State.ioRead16_draws (port : Word) : (s.ioRead16 port).draws = s.draws + 1 := rfl
@[simp] theorem State.ioRead16_io (port : Word) : (s.ioRead16 port).io = .read16 port (s.ioValue16 port) :: s.io :=
  rfl

/-! ### `ioWrite8` -/

@[simp] theorem State.ioWrite8_regs (port : Word) (v : Byte) : (s.ioWrite8 port v).regs = s.regs := rfl
@[simp] theorem State.ioWrite8_segs (port : Word) (v : Byte) : (s.ioWrite8 port v).segs = s.segs := rfl
@[simp] theorem State.ioWrite8_ip (port : Word) (v : Byte) : (s.ioWrite8 port v).ip = s.ip := rfl
@[simp] theorem State.ioWrite8_flags (port : Word) (v : Byte) : (s.ioWrite8 port v).flags = s.flags := rfl
@[simp] theorem State.ioWrite8_vm (port : Word) (v : Byte) : (s.ioWrite8 port v).vm = s.vm := rfl
@[simp] theorem State.ioWrite8_handler (port : Word) (v : Byte) : (s.ioWrite8 port v).handler = s.handler := rfl
@[simp] theorem State.ioWrite8_halted (port : Word) (v : Byte) : (s.ioWrite8 port v).halted = s.halted := rfl
@[simp] theorem State.ioWrite8_mem (port : Word) (v : Byte) : (s.ioWrite8 port v).mem = s.mem := rfl
@[simp] theorem State.ioWrite8_isa186 (port : Word) (v : Byte) : (s.ioWrite8 port v).isa186 = s.isa186 := rfl
@[simp] theorem State.ioWrite8_pfx (port : Word) (v : Byte) : (s.ioWrite8 port v).pfx = s.pfx := rfl
@[simp] theorem State.ioWrite8_draws (port : Word) (v : Byte) : (s.ioWrite8 port v).draws = s.draws := rfl
@[simp] theorem State.ioWrite8_io (port : Word) (v : Byte) : (s.ioWrite8 port v).io = .write8 port v :: s.io := rfl

/-! ### `ioWrite16` -/

@[simp] theorem State.ioWrite16_regs (port v : Word) : (s.ioWrite16 port v).regs = s.regs := rfl
@[simp] theorem State.ioWrite16_segs (port v : Word) : (s.ioWrite16 port v).segs = s.segs := rfl
@[simp] theorem State.ioWrite16_ip (port v : Word) : (s.ioWrite16 port v).ip = s.ip := rfl
@[simp] theorem State.ioWrite16_flags (port v : Word) : (s.ioWrite16 port v).flags = s.flags := rfl
@[simp] theorem State.ioWrite16_vm (port v : Word) : (s.ioWrite16 port v).vm = s.vm := rfl
@[simp] theorem State.ioWrite16_handler (port v : Word) : (s.ioWrite16 port v).handler = s.handler := rfl
@[simp] theorem State.ioWrite16_halted (port v : Word) : (s.ioWrite16 port v).halted = s.halted := rfl
@[simp] theorem State.ioWrite16_mem (port v : Word) : (s.ioWrite16 port v).mem = s.mem := rfl
@[simp] theorem State.ioWrite16_isa186 (port v : Word) : (s.ioWrite16 port v).isa186 = s.isa186 := rfl
@[simp] theorem State.ioWrite16_pfx (port v : Word) : (s.ioWrite16 port v).pfx = s.pfx := rfl
@[simp] theorem State.ioWrite16_draws (port v : Word) : (s.ioWrite16 port v).draws = s.draws := rfl
@[simp] theorem State.ioWrite16_io (port v : Word) : (s.ioWrite16 port v).io = .write16 port v :: s.io := rfl

/-! ### `stepIndex` -/

@[simp] theorem State.stepIndex_segs (r : Reg16) (n : Word) : (s.stepIndex r n).segs = s.segs := rfl
@[simp] theorem State.stepIndex_ip (r : Reg16) (n : Word) : (s.stepIndex r n).ip = s.ip := rfl
@[simp] theorem State.stepIndex_flags (r : Reg16) (n : Word) : (s.stepIndex r n).flags = s.flags := rfl
@[simp] theorem State.stepIndex_vm (r : Reg16) (n : Word) : (s.stepIndex r n).vm = s.vm := rfl
@[simp] theorem State.stepIndex_handler (r : Reg16) (n : Word) : (s.stepIndex r n).handler = s.handler := rfl
@[simp] theorem State.stepIndex_halted (r : Reg16) (n : Word) : (s.stepIndex r n).halted = s.halted := rfl
@[simp] theorem State.stepIndex_mem (r : Reg16) (n : Word) : (s.stepIndex r n).mem = s.mem := rfl
@[simp] theorem State.stepIndex_isa186 (r : Reg16) (n : Word) : (s.stepIndex r n).isa186 = s.isa186 := rfl
@[simp] theorem State.stepIndex_pfx (r : Reg16) (n : Word) : (s.stepIndex r n).pfx = s.pfx := rfl
@[simp] theorem State.stepIndex_draws (r : Reg16) (n : Word) : (s.stepIndex r n).draws = s.draws := rfl
@[simp] theorem State.stepIndex_io (r : Reg16) (n : Word) : (s.stepIndex r n).io = s.io := rfl

end Sys2Proof.Machine
end

