-- ==== Sys2Proof/Laws/Memory.lean ====
section
/-! SUPPORT. The laws of memory: a byte read after a write, the canonical form kept by every write, and the translation
of addresses (spec/20_memory.md R60 to R65). -/

namespace Sys2Proof.Machine

/-! ### Read after write -/

theorem Memory.read_erase (m : Memory) (p q : Nat) :
    (m.erase p).read q = if q = p then Config.unwritten else m.read q := by
  induction m with
  | nil => simp [Memory.erase, Memory.read]
  | cons c rest ih =>
    obtain ⟨k, v⟩ := c
    simp only [Memory.erase]
    split
    · subst_vars
      rw [ih]
      simp only [Memory.read]
      split <;> simp_all
    · simp only [Memory.read]
      split
      · split <;> simp_all
      · rw [ih]

theorem Memory.read_insert (m : Memory) (p q : Nat) (b : Byte) :
    (m.insert p b).read q = if q = p then b else m.read q := by
  induction m with
  | nil => simp [Memory.insert, Memory.read]
  | cons c rest ih =>
    obtain ⟨k, v⟩ := c
    simp only [Memory.insert]
    split
    · subst_vars
      simp only [Memory.read]
      split <;> simp_all
    · split
      · simp only [Memory.read]
      · simp only [Memory.read]
        split
        · split <;> simp_all
        · rw [ih]

/-- `PhysRead` after `PhysWrite` (00_scope.md R5). -/
theorem Memory.read_write (m : Memory) (p q : Nat) (b : Byte) :
    (m.write p b).read q = if q = p then b else m.read q := by
  simp only [Memory.write]
  split
  · subst_vars
    rw [Memory.read_erase]
  · rw [Memory.read_insert]

@[simp] theorem Memory.read_write_same (m : Memory) (p : Nat) (b : Byte) : (m.write p b).read p = b := by
  simp [Memory.read_write]

theorem Memory.read_write_other (m : Memory) {p q : Nat} (b : Byte) (h : q ≠ p) : (m.write p b).read q = m.read q := by
  simp [Memory.read_write, h]

/-! ### The canonical form -/

theorem Memory.wfFrom_mono {m : Memory} {lo lo' : Nat} (h : lo' ≤ lo) (hm : m.wfFrom lo = true) :
    m.wfFrom lo' = true := by
  cases m with
  | nil => rfl
  | cons c rest =>
    obtain ⟨k, v⟩ := c
    simp only [Memory.wfFrom, Bool.and_eq_true, decide_eq_true_eq] at hm ⊢
    exact ⟨⟨⟨by omega, hm.1.1.2⟩, hm.1.2⟩, hm.2⟩

theorem Memory.wfFrom_erase {m : Memory} {lo : Nat} (p : Nat) (hm : m.wfFrom lo = true) :
    (m.erase p).wfFrom lo = true := by
  induction m generalizing lo with
  | nil => rfl
  | cons c rest ih =>
    obtain ⟨k, v⟩ := c
    simp only [Memory.wfFrom, Bool.and_eq_true, decide_eq_true_eq] at hm
    simp only [Memory.erase]
    split
    · exact Memory.wfFrom_mono (by omega) (ih hm.2)
    · simp only [Memory.wfFrom, Bool.and_eq_true, decide_eq_true_eq]
      exact ⟨hm.1, ih hm.2⟩

theorem Memory.wfFrom_insert {m : Memory} {lo p : Nat} {b : Byte} (hlo : lo ≤ p) (hp : p < Config.memSize)
    (hb : b ≠ Config.unwritten) (hm : m.wfFrom lo = true) : (m.insert p b).wfFrom lo = true := by
  induction m generalizing lo with
  | nil => simp [Memory.insert, Memory.wfFrom, hlo, hp, hb]
  | cons c rest ih =>
    obtain ⟨k, v⟩ := c
    simp only [Memory.wfFrom, Bool.and_eq_true, decide_eq_true_eq, bne_iff_ne] at hm
    simp only [Memory.insert]
    split
    · subst_vars
      simp only [Memory.wfFrom, Bool.and_eq_true, decide_eq_true_eq, bne_iff_ne]
      exact ⟨⟨⟨hlo, hp⟩, hb⟩, hm.2⟩
    · split
      · simp only [Memory.wfFrom, Bool.and_eq_true, decide_eq_true_eq, bne_iff_ne]
        exact ⟨⟨⟨hlo, hp⟩, hb⟩, ⟨⟨by omega, hm.1.1.2⟩, hm.1.2⟩, hm.2⟩
      · simp only [Memory.wfFrom, Bool.and_eq_true, decide_eq_true_eq, bne_iff_ne]
        exact ⟨hm.1, ih (by omega) hm.2⟩

/-- Every write inside the memory keeps the canonical form. -/
theorem Memory.wf_write {m : Memory} {p : Nat} (b : Byte) (hp : p < Config.memSize) (hm : m.wf = true) :
    (m.write p b).wf = true := by
  simp only [Memory.write]
  split
  · exact Memory.wfFrom_erase p hm
  · exact Memory.wfFrom_insert (Nat.zero_le p) hp ‹_› hm

theorem Memory.wf_storeAll {m : Memory} (l : List (BitVec 20 × Byte)) (hm : m.wf = true) :
    (m.storeAll l).wf = true := by
  induction l generalizing m with
  | nil => exact hm
  | cons c rest ih =>
    obtain ⟨p, b⟩ := c
    exact ih (Memory.wf_write b (by simpa [Config.memSize] using p.isLt) hm)

/-! ### Translation (R60) -/

theorem phys_lt (seg off : Word) : phys seg off < Config.memSize :=
  Nat.mod_lt _ (by decide)

/-- Two offsets of one segment name one byte only if they are equal. -/
theorem phys_inj {seg a b : Word} : phys seg a = phys seg b ↔ a = b := by
  constructor
  · intro h
    simp only [phys, Config.memSize] at h
    have ha := a.isLt
    have hb := b.isLt
    have hs := seg.isLt
    apply BitVec.eq_of_toNat_eq
    omega
  · rintro rfl; rfl

theorem phys_next_ne (seg off : Word) : phys seg (off + 1#16) ≠ phys seg off := by
  intro h
  have := phys_inj.mp h
  bv_omega

/-! ### The bytes of a word -/

theorem Word.ofBytes_toNat (lo hi : Byte) : (Word.ofBytes lo hi).toNat = hi.toNat * 256 + lo.toNat := by
  have h : hi.toNat * 256 + lo.toNat = 2 ^ 8 * hi.toNat + lo.toNat := by omega
  rw [h, Nat.two_pow_add_eq_or_of_lt lo.isLt, Word.ofBytes, BitVec.toNat_append, Nat.shiftLeft_eq, Nat.mul_comm]

theorem Word.lo_toNat (v : Word) : (Word.lo v).toNat = v.toNat % 256 := by
  simp [Word.lo, BitVec.extractLsb'_toNat]

theorem Word.hi_toNat (v : Word) : (Word.hi v).toNat = v.toNat / 256 := by
  have := v.isLt
  simp [Word.hi, BitVec.extractLsb'_toNat, Nat.shiftRight_eq_div_pow]
  omega

@[simp] theorem Word.lo_ofBytes (lo hi : Byte) : Word.lo (Word.ofBytes lo hi) = lo := by
  have := lo.isLt
  apply BitVec.eq_of_toNat_eq
  rw [Word.lo_toNat, Word.ofBytes_toNat]
  omega

@[simp] theorem Word.hi_ofBytes (lo hi : Byte) : Word.hi (Word.ofBytes lo hi) = hi := by
  have := lo.isLt
  apply BitVec.eq_of_toNat_eq
  rw [Word.hi_toNat, Word.ofBytes_toNat]
  omega

@[simp] theorem Word.ofBytes_lo_hi (v : Word) : Word.ofBytes (Word.lo v) (Word.hi v) = v := by
  apply BitVec.eq_of_toNat_eq
  rw [Word.ofBytes_toNat, Word.lo_toNat, Word.hi_toNat]
  omega

/-! ### Words through a segment (R64, R65) -/

theorem State.read8_write8 (s : State) (seg off seg' off' : Word) (v : Byte) :
    (s.write8 seg off v).read8 seg' off' = if phys seg' off' = phys seg off then v else s.read8 seg' off' := by
  simp [State.read8, Memory.read_write]

theorem State.read_write16 (s : State) (seg off v : Word) (a : Nat) :
    (s.write16 seg off v).mem.read a =
      if a = phys seg (off + 1#16) then Word.hi v else if a = phys seg off then Word.lo v else s.mem.read a := by
  simp [Memory.read_write]

/-- A word written is the word read, across the wrap of the offset too. -/
@[simp] theorem State.read16_write16 (s : State) (seg off v : Word) : (s.write16 seg off v).read16 seg off = v := by
  have h := phys_next_ne seg off
  simp [State.read16, State.read8, Memory.read_write, h.symm]

theorem State.holdsWord_iff (t : State) (seg off v : Word) : t.HoldsWord seg off v ↔ t.read16 seg off = v := by
  simp only [State.HoldsWord, State.read16, State.read8]
  constructor
  · rintro ⟨h1, h2⟩; rw [h1, h2]; simp
  · rintro rfl; simp

theorem State.wf_write8 {s : State} (seg off : Word) (v : Byte) (h : s.mem.wf = true) :
    (s.write8 seg off v).mem.wf = true := by
  simpa using Memory.wf_write v (phys_lt seg off) h

theorem State.wf_write16 {s : State} (seg off v : Word) (h : s.mem.wf = true) :
    (s.write16 seg off v).mem.wf = true := by
  simpa using Memory.wf_write _ (phys_lt _ _) (Memory.wf_write _ (phys_lt _ _) h)

theorem State.wf_push16 {s : State} (v : Word) (h : s.mem.wf = true) : (s.push16 v).mem.wf = true :=
  State.wf_write16 _ _ _ h

theorem State.wf_storeCode {s : State} (off : Word) (bs : List Byte) (h : s.mem.wf = true) :
    (s.storeCode off bs).mem.wf = true := by
  induction bs generalizing s off with
  | nil => exact h
  | cons b bs ih => exact ih _ (State.wf_write8 _ _ _ h)

theorem State.wf_loadBytes {s : State} (seg off : Word) (bs : List Byte) (h : s.mem.wf = true) :
    (s.loadBytes seg off bs).mem.wf = true := by
  induction bs generalizing s off with
  | nil => exact h
  | cons b bs ih => exact ih _ (State.wf_write8 _ _ _ h)

theorem State.wf_setVector {s : State} (n : Byte) (segment offset : Word) (h : s.mem.wf = true) :
    (s.setVector n segment offset).mem.wf = true := by
  have := n.isLt
  simp only [State.setVector]
  repeat apply Memory.wf_write _ (by simp only [Config.memSize]; omega)
  exact h

theorem State.wf_fillVectors {s : State} (segment offset : Word) (n : Nat) (h : s.mem.wf = true) :
    (s.fillVectors segment offset n).mem.wf = true := by
  induction n with
  | zero => exact h
  | succ n ih => exact State.wf_setVector _ _ _ ih

theorem reset_memory_wf : State.reset.mem.wf = true := rfl

end Sys2Proof.Machine
end

