-- ==== Sys2Proof/Laws/Frame.lean ====
section
/-! SUPPORT. The algebra of frames, the registers after a write, and for each shared operation of Machine/Ops.lean and
Machine/Operands.lean what it changes and what it writes. -/

namespace Sys2Proof.Machine

variable {s t u : State}

/-! ### The algebra -/

theorem Changes.refl (s : State) : Changes s s [] [] [] :=
  ⟨fun _ _ => rfl, fun _ _ => rfl, fun p _ => by cases p <;> rfl⟩

theorem Part.Same.trans {p : Part} (h1 : p.Same s t) (h2 : p.Same t u) : p.Same s u := by
  cases p <;> exact Eq.trans h2 h1

theorem Changes.mono {r r' : List Reg16} {b b' : List Nat} {p p' : List Part} (h : Changes s t r b p)
    (hr : r ⊆ r') (hb : b ⊆ b') (hp : p ⊆ p') : Changes s t r' b' p' :=
  ⟨fun x hx => h.regs x fun hh => hx (hr hh), fun x hx => h.bytes x fun hh => hx (hb hh),
    fun x hx => h.parts x fun hh => hx (hp hh)⟩

/-- Two frames in a row, inside one that covers both. -/
theorem Changes.trans {r1 r2 r : List Reg16} {b1 b2 b : List Nat} {p1 p2 p : List Part}
    (h1 : Changes s t r1 b1 p1) (h2 : Changes t u r2 b2 p2)
    (hr : r1 ++ r2 ⊆ r) (hb : b1 ++ b2 ⊆ b) (hp : p1 ++ p2 ⊆ p) : Changes s u r b p := by
  refine ⟨fun x hx => ?_, fun x hx => ?_, fun x hx => ?_⟩
  · rw [h2.regs x fun hh => hx (hr (by simp [hh])), h1.regs x fun hh => hx (hr (by simp [hh]))]
  · rw [h2.bytes x fun hh => hx (hb (by simp [hh])), h1.bytes x fun hh => hx (hb (by simp [hh]))]
  · exact (h1.parts x fun hh => hx (hp (by simp [hh]))).trans (h2.parts x fun hh => hx (hp (by simp [hh])))

/-! ### Registers after a write -/

theorem Regs.get_set (g : Regs) (r q : Reg16) (v : Word) : (g.set r v).get q = if q = r then v else g.get q := by
  cases r <;> cases q <;> rfl

theorem Segs.get_set (g : Segs) (r q : SReg) (v : Word) : (g.set r v).get q = if q = r then v else g.get q := by
  cases r <;> cases q <;> rfl

theorem State.reg16_setReg16 (s : State) (r q : Reg16) (v : Word) :
    (s.setReg16 r v).reg16 q = if q = r then v else s.reg16 q := Regs.get_set _ _ _ _

@[simp] theorem State.reg16_setReg16_same (s : State) (r : Reg16) (v : Word) : (s.setReg16 r v).reg16 r = v := by
  simp [State.reg16_setReg16]

theorem State.seg_setSeg (s : State) (r q : SReg) (v : Word) :
    (s.setSeg r v).seg q = if q = r then v else s.seg q := Segs.get_set _ _ _ _

@[simp] theorem State.seg_setSeg_same (s : State) (r : SReg) (v : Word) : (s.setSeg r v).seg r = v := by
  simp [State.seg_setSeg]

theorem State.reg16_congr {s t : State} (h : t.regs = s.regs) (r : Reg16) : t.reg16 r = s.reg16 r := by
  simp [State.reg16, h]

theorem State.reg8_congr {s t : State} (h : t.regs = s.regs) (r : Reg8) : t.reg8 r = s.reg8 r := by
  simp [State.reg8, State.reg16, h]

theorem State.seg_congr {s t : State} (h : t.segs = s.segs) (r : SReg) : t.seg r = s.seg r := by
  simp [State.seg, h]

theorem State.read8_congr {s t : State} (h : t.mem = s.mem) (seg off : Word) : t.read8 seg off = s.read8 seg off := by
  simp [State.read8, h]

theorem State.read16_congr {s t : State} (h : t.mem = s.mem) (seg off : Word) :
    t.read16 seg off = s.read16 seg off := by
  simp [State.read16, State.read8, h]

section
variable (s : State) (r q : Reg16) (sr : SReg) (b : Reg8) (f : Flags) (v seg off : Word) (x : Byte) (k : Nat)
  (p : Pfx) (e : IoEvent)

@[simp] theorem State.reg16_setSeg : (s.setSeg sr v).reg16 q = s.reg16 q := rfl
@[simp] theorem State.reg16_setIp : (s.setIp v).reg16 q = s.reg16 q := rfl
@[simp] theorem State.reg16_setFlags : (s.setFlags f).reg16 q = s.reg16 q := rfl
@[simp] theorem State.reg16_setPfx : (s.setPfx p).reg16 q = s.reg16 q := rfl
@[simp] theorem State.reg16_halt : s.halt.reg16 q = s.reg16 q := rfl
@[simp] theorem State.reg16_drew : (s.drew k).reg16 q = s.reg16 q := rfl
@[simp] theorem State.reg16_logIo : (s.logIo e).reg16 q = s.reg16 q := rfl
@[simp] theorem State.reg16_write8 : (s.write8 seg off x).reg16 q = s.reg16 q := rfl
@[simp] theorem State.reg16_write16 : (s.write16 seg off v).reg16 q = s.reg16 q := rfl
@[simp] theorem State.reg8_setSeg : (s.setSeg sr v).reg8 b = s.reg8 b := rfl
@[simp] theorem State.reg8_setIp : (s.setIp v).reg8 b = s.reg8 b := rfl
@[simp] theorem State.reg8_setFlags : (s.setFlags f).reg8 b = s.reg8 b := rfl
@[simp] theorem State.reg8_setPfx : (s.setPfx p).reg8 b = s.reg8 b := rfl
@[simp] theorem State.reg8_drew : (s.drew k).reg8 b = s.reg8 b := rfl
@[simp] theorem State.reg8_logIo : (s.logIo e).reg8 b = s.reg8 b := rfl
@[simp] theorem State.reg8_write8 : (s.write8 seg off x).reg8 b = s.reg8 b := rfl
@[simp] theorem State.reg8_write16 : (s.write16 seg off v).reg8 b = s.reg8 b := rfl
@[simp] theorem State.seg_setReg16 : (s.setReg16 r v).seg sr = s.seg sr := rfl
@[simp] theorem State.seg_setReg8 : (s.setReg8 b x).seg sr = s.seg sr := rfl
@[simp] theorem State.seg_setIp : (s.setIp v).seg sr = s.seg sr := rfl
@[simp] theorem State.seg_setFlags : (s.setFlags f).seg sr = s.seg sr := rfl
@[simp] theorem State.seg_setPfx : (s.setPfx p).seg sr = s.seg sr := rfl
@[simp] theorem State.seg_drew : (s.drew k).seg sr = s.seg sr := rfl
@[simp] theorem State.seg_logIo : (s.logIo e).seg sr = s.seg sr := rfl
@[simp] theorem State.seg_write8 : (s.write8 seg off x).seg sr = s.seg sr := rfl
@[simp] theorem State.seg_write16 : (s.write16 seg off v).seg sr = s.seg sr := rfl
end

/-- The 16-bit register is its two halves (10_state.md R22). -/
theorem State.reg8_setReg8 (s : State) (r q : Reg8) (v : Byte) :
    (s.setReg8 r v).reg8 q = if q = r then v else s.reg8 q := by
  cases r <;> cases q <;> simp [State.setReg8, State.reg8, Reg8.home, Reg8.isHigh, State.reg16_setReg16]

@[simp] theorem State.reg8_setReg8_same (s : State) (r : Reg8) (v : Byte) : (s.setReg8 r v).reg8 r = v := by
  simp [State.reg8_setReg8]

theorem State.reg16_setReg8_other (s : State) {r : Reg8} {q : Reg16} (v : Byte) (h : q ≠ Reg8.home r) :
    (s.setReg8 r v).reg16 q = s.reg16 q := by
  simp [State.setReg8, State.reg16_setReg16, h]

theorem State.reg16_setReg8_home (s : State) (r : Reg8) (v : Byte) :
    (s.setReg8 r v).reg16 (Reg8.home r) =
      if Reg8.isHigh r then Word.ofBytes (Word.lo (s.reg16 (Reg8.home r))) v
      else Word.ofBytes v (Word.hi (s.reg16 (Reg8.home r))) := by
  simp [State.setReg8]

/-! ### What each operation changes -/

theorem changes_setReg16 (s : State) (r : Reg16) (v : Word) : Changes s (s.setReg16 r v) [r] [] [] :=
  ⟨fun q hq => by simp_all [State.reg16_setReg16], fun _ _ => rfl, fun p _ => by cases p <;> rfl⟩

theorem changes_setReg8 (s : State) (r : Reg8) (v : Byte) : Changes s (s.setReg8 r v) [Reg8.home r] [] [] :=
  changes_setReg16 _ _ _

theorem changes_setFlags (s : State) (f : Flags) : Changes s (s.setFlags f) [] [] [.flags] :=
  ⟨fun _ _ => rfl, fun _ _ => rfl, fun p hp => by cases p <;> first | rfl | simp at hp⟩

theorem changes_setIp (s : State) (v : Word) : Changes s (s.setIp v) [] [] [.ip] :=
  ⟨fun _ _ => rfl, fun _ _ => rfl, fun p hp => by cases p <;> first | rfl | simp at hp⟩

theorem changes_setPfx (s : State) (q : Pfx) : Changes s (s.setPfx q) [] [] [.pfx] :=
  ⟨fun _ _ => rfl, fun _ _ => rfl, fun p hp => by cases p <;> first | rfl | simp at hp⟩

theorem changes_halt (s : State) : Changes s s.halt [] [] [.halted] :=
  ⟨fun _ _ => rfl, fun _ _ => rfl, fun p hp => by cases p <;> first | rfl | simp at hp⟩

theorem changes_logIo (s : State) (e : IoEvent) : Changes s (s.logIo e) [] [] [.io] :=
  ⟨fun _ _ => rfl, fun _ _ => rfl, fun p hp => by cases p <;> first | rfl | simp at hp⟩

/-- The counter of draws is no part of a frame. -/
theorem changes_drew (s : State) (k : Nat) : Changes s (s.drew k) [] [] [] :=
  ⟨fun _ _ => rfl, fun _ _ => rfl, fun p _ => by cases p <;> rfl⟩

theorem changes_setEs (s : State) (v : Word) : Changes s (s.setSeg .es v) [] [] [.es] :=
  ⟨fun _ _ => rfl, fun _ _ => rfl, fun p hp => by cases p <;> first | rfl | simp at hp⟩

theorem changes_setCs (s : State) (v : Word) : Changes s (s.setSeg .cs v) [] [] [.cs] :=
  ⟨fun _ _ => rfl, fun _ _ => rfl, fun p hp => by cases p <;> first | rfl | simp at hp⟩

theorem changes_setSs (s : State) (v : Word) : Changes s (s.setSeg .ss v) [] [] [.ss] :=
  ⟨fun _ _ => rfl, fun _ _ => rfl, fun p hp => by cases p <;> first | rfl | simp at hp⟩

theorem changes_setDs (s : State) (v : Word) : Changes s (s.setSeg .ds v) [] [] [.ds] :=
  ⟨fun _ _ => rfl, fun _ _ => rfl, fun p hp => by cases p <;> first | rfl | simp at hp⟩

theorem changes_write8 (s : State) (seg off : Word) (v : Byte) :
    Changes s (s.write8 seg off v) [] [phys seg off] [] :=
  ⟨fun _ _ => rfl, fun a ha => by simp_all [Memory.read_write], fun p _ => by cases p <;> rfl⟩

theorem changes_write16 (s : State) (seg off v : Word) :
    Changes s (s.write16 seg off v) [] (wordBytes seg off) [] :=
  ⟨fun _ _ => rfl, fun a ha => by simp_all [Memory.read_write, wordBytes], fun p _ => by cases p <;> rfl⟩

/-! ### Operands (30_encoding.md R104) -/

/-- Writing a resolved 8-bit operand: the operand holds the value, the rest is framed; `s` is the state it was resolved
in, `u` the one it is written in. -/
theorem wrote8_put8 {parts : List Part} (h : Changes s u [] [] parts) (e : Eb) (v : Byte) :
    Wrote8 s (u.put8 (s.loc e) v) e v parts := by
  cases e with
  | reg r =>
    have hr (q : Reg8) : u.reg8 q = s.reg8 q := by simp [State.reg8, h.regs _ (List.not_mem_nil)]
    refine ⟨by simp [State.loc, State.put8], fun q hq => ?_, h.trans (changes_setReg8 _ _ _) ?_ ?_ ?_⟩ <;>
      simp_all [State.loc, State.put8, State.reg8_setReg8]
  | mem m => exact ⟨by simp [State.loc, State.put8], h.trans (changes_write8 _ _ _ _) (by simp) (by simp) (by simp)⟩

/-- Writing a resolved 16-bit operand. -/
theorem wrote16_put16 {parts : List Part} (h : Changes s u [] [] parts) (e : Ew) (v : Word) :
    Wrote16 s (u.put16 (s.loc e) v) e v parts := by
  cases e with
  | reg r => exact ⟨by simp [State.loc, State.put16], h.trans (changes_setReg16 _ _ _) (by simp) (by simp) (by simp)⟩
  | mem m =>
    refine ⟨?_, h.trans (changes_write16 _ _ _ _) (by simp) (by simp) (by simp)⟩
    rw [State.holdsWord_iff]
    exact State.read16_write16 _ _ _ _

/-- What follows a write of an operand without touching registers or memory only adds to the frame. -/
theorem Wrote8.trans {parts p2 p : List Part} {e : Eb} {v : Byte} (h : Wrote8 s t e v parts)
    (h2 : Changes t u [] [] p2) (hp : parts ++ p2 ⊆ p) : Wrote8 s u e v p := by
  cases e with
  | reg r =>
    have hr (q : Reg8) : u.reg8 q = t.reg8 q := by simp [State.reg8, h2.regs _ (List.not_mem_nil)]
    exact ⟨(hr r).trans h.1, fun q hq => (hr q).trans (h.2.1 q hq), h.2.2.trans h2 (by simp) (by simp) hp⟩
  | mem m => exact ⟨(h2.bytes _ (List.not_mem_nil)).trans h.1, h.2.trans h2 (by simp) (by simp) hp⟩

theorem Wrote16.trans {parts p2 p : List Part} {e : Ew} {v : Word} (h : Wrote16 s t e v parts)
    (h2 : Changes t u [] [] p2) (hp : parts ++ p2 ⊆ p) : Wrote16 s u e v p := by
  cases e with
  | reg r => exact ⟨(h2.regs r (List.not_mem_nil)).trans h.1, h.2.trans h2 (by simp) (by simp) hp⟩
  | mem m =>
    refine ⟨?_, h.2.trans h2 (by simp) (by simp) hp⟩
    exact ⟨(h2.bytes _ (List.not_mem_nil)).trans h.1.1, (h2.bytes _ (List.not_mem_nil)).trans h.1.2⟩

/-- An operand resolved to itself: writing back what it holds changes nothing (41_logic_shift.md R199). -/
theorem changes_put8_get8 (s : State) (e : Eb) : Changes s (s.put8 (s.loc e) (s.get8 (s.loc e))) [] [] [] := by
  cases e with
  | reg r =>
    refine ⟨fun q _ => ?_, fun _ _ => rfl, fun p _ => by cases p <;> rfl⟩
    cases r <;> cases q <;>
      simp [State.loc, State.put8, State.get8, State.reg8, State.setReg8, State.reg16_setReg16, Reg8.home, Reg8.isHigh]
  | mem m =>
    refine ⟨fun _ _ => rfl, fun a _ => ?_, fun p _ => by cases p <;> rfl⟩
    simp only [State.loc, State.put8, State.get8, State.write8_mem, Memory.read_write, State.read8]
    split <;> simp_all

theorem changes_put16_get16 (s : State) (e : Ew) : Changes s (s.put16 (s.loc e) (s.get16 (s.loc e))) [] [] [] := by
  cases e with
  | reg r =>
    refine ⟨fun q _ => ?_, fun _ _ => rfl, fun p _ => by cases p <;> rfl⟩
    simp only [State.loc, State.put16, State.get16, State.reg16_setReg16]
    split <;> simp_all
  | mem m =>
    refine ⟨fun _ _ => rfl, fun a _ => ?_, fun p _ => by cases p <;> rfl⟩
    simp only [State.loc, State.put16, State.get16, State.read_write16, State.read16, State.read8]
    split
    · simp_all
    · split <;> simp_all

theorem dataSeg_ds (s : State) : s.dataSeg .ds = s.sourceSeg := by
  simp only [State.dataSeg, State.sourceSeg]
  split <;> simp_all

/-! ### The stack (20_memory.md R70, R71) -/

@[simp] theorem State.reg16_push16 (s : State) (v : Word) (r : Reg16) :
    (s.push16 v).reg16 r = if r = .sp then s.reg16 .sp - 2#16 else s.reg16 r := by
  simp [State.push16, State.reg16_setReg16]

@[simp] theorem State.seg_push16 (s : State) (v : Word) (r : SReg) : (s.push16 v).seg r = s.seg r := rfl

@[simp] theorem State.reg16_drop16 (s : State) (r : Reg16) :
    s.drop16.reg16 r = if r = .sp then s.reg16 .sp + 2#16 else s.reg16 r := by
  simp [State.drop16, State.reg16_setReg16]

@[simp] theorem State.seg_drop16 (s : State) (r : SReg) : s.drop16.seg r = s.seg r := rfl

theorem changes_drop16 (s : State) : Changes s s.drop16 [.sp] [] [] := changes_setReg16 _ _ _

@[simp] theorem State.reg8_push16 (s : State) (v : Word) (r : Reg8) : (s.push16 v).reg8 r = s.reg8 r := by
  cases r <;> simp [State.reg8, Reg8.home]

@[simp] theorem State.reg8_drop16 (s : State) (r : Reg8) : s.drop16.reg8 r = s.reg8 r := by
  cases r <;> simp [State.reg8, Reg8.home]

/-- The words pushed are those above, in the slots below SP. -/
theorem Pushed.nil (s : State) : Pushed s s [] [] [] :=
  ⟨by simp [State.below], fun k v h => by simp at h, (Changes.refl s).mono (by simp) (by simp) (by simp)⟩

theorem State.below_inj {s : State} {j k : Nat} (hj : j < 0x10000) (hk : k < 0x10000) :
    s.below j = s.below k ↔ j = k := by
  simp only [State.below]
  constructor
  · intro h
    have : BitVec.ofNat 16 j = BitVec.ofNat 16 k := by bv_omega
    have := congrArg BitVec.toNat this
    simp at this
    omega
  · rintro rfl; rfl

theorem State.stackBytes_mem {s : State} {n a : Nat} : a ∈ s.stackBytes n ↔ ∃ j < n, phys (s.seg .ss) (s.below (j + 1)) = a := by
  simp [State.stackBytes]

theorem below_add_one (s : State) (k : Nat) : s.below (k + 1) + 1#16 = s.below k := by
  have h : BitVec.ofNat 16 (k + 1) = BitVec.ofNat 16 k + 1#16 := by
    apply BitVec.eq_of_toNat_eq; simp
  simp only [State.below, h]
  bv_omega

/-- One more word pushed. -/
theorem Pushed.push {vs : List Word} {regs : List Reg16} {parts : List Part} (h : Pushed s t vs regs parts) (v : Word)
    (hss : t.seg .ss = s.seg .ss) (hn : vs.length < 0x4000) : Pushed s (t.push16 v) (vs ++ [v]) regs parts := by
  obtain ⟨hsp, hw, hc⟩ := h
  have hb : t.reg16 .sp - 2#16 = s.below (2 * vs.length + 2) := by
    rw [hsp]
    have h : BitVec.ofNat 16 (2 * vs.length + 2) = BitVec.ofNat 16 (2 * vs.length) + 2#16 := by
      apply BitVec.eq_of_toNat_eq; simp
    simp only [State.below, h]; bv_omega
  have hb1 : s.below (2 * vs.length + 2) + 1#16 = s.below (2 * vs.length + 1) := below_add_one _ _
  have hmem (a : Nat) : (t.push16 v).mem.read a = if a = phys (s.seg .ss) (s.below (2 * vs.length + 1)) then Word.hi v
      else if a = phys (s.seg .ss) (s.below (2 * vs.length + 2)) then Word.lo v else t.mem.read a := by
    simp only [State.push16, State.read_write16, hss, hb, hb1, State.setReg16_mem]
  refine ⟨?_, ?_, ?_⟩
  · simp [hb, Nat.mul_add]
  · intro k w hk
    rw [List.getElem?_append] at hk
    have hb2 : s.below (2 * k + 2) + 1#16 = s.below (2 * k + 1) := below_add_one _ _
    split at hk
    · have hw' := hw k w hk
      simp only [State.HoldsWord, hb2] at hw' ⊢
      have hne (i j : Nat) (hi : i < 0x10000) (hj : j < 0x10000) (hij : i ≠ j) :
          phys (s.seg .ss) (s.below i) ≠ phys (s.seg .ss) (s.below j) := by
        rw [Ne, phys_inj, State.below_inj hi hj]; exact hij
      rw [hmem, hmem, if_neg (hne _ _ (by omega) (by omega) (by omega)), if_neg (hne _ _ (by omega) (by omega) (by omega)),
        if_neg (hne _ _ (by omega) (by omega) (by omega)), if_neg (hne _ _ (by omega) (by omega) (by omega))]
      exact hw'
    · have hk0 : k = vs.length ∧ v = w := by
        rw [List.getElem?_singleton] at hk
        split at hk
        · exact ⟨by omega, by simpa using hk⟩
        · simp at hk
      obtain ⟨rfl, rfl⟩ := hk0
      have hne : phys (s.seg .ss) (s.below (2 * vs.length + 2)) ≠ phys (s.seg .ss) (s.below (2 * vs.length + 1)) := by
        rw [Ne, phys_inj, State.below_inj (by omega) (by omega)]; omega
      simp [State.HoldsWord, hb2, hmem, hne]
  · refine ⟨fun r hr => ?_, fun a ha => ?_, fun p hp => ?_⟩
    · simp only [List.mem_cons, not_or] at hr
      rw [State.reg16_push16, if_neg hr.1, hc.regs r (by simp [hr])]
    · rw [State.stackBytes_mem] at ha
      simp only [not_exists, not_and] at ha
      rw [hmem, if_neg, if_neg]
      · refine hc.bytes a ?_
        rw [State.stackBytes_mem]
        rintro ⟨j, hj, rfl⟩
        exact ha j (by simp; omega) rfl
      · exact fun h => ha (2 * vs.length + 1) (by simp; omega) h.symm
      · exact fun h => ha (2 * vs.length) (by simp) h.symm
    · have := hc.parts p hp
      revert this
      cases p <;> exact id

/-- What follows pushes without touching registers or memory. -/
theorem Pushed.trans {vs : List Word} {regs : List Reg16} {parts p2 p : List Part} (h : Pushed s t vs regs parts)
    (h2 : Changes t u [] [] p2) (hp : parts ++ p2 ⊆ p) : Pushed s u vs regs p := by
  refine ⟨(h2.regs _ (List.not_mem_nil)).trans h.1, fun k v hk => ?_, h.2.2.trans h2 (by simp) (by simp) hp⟩
  exact ⟨(h2.bytes _ (List.not_mem_nil)).trans (h.2.1 k v hk).1, (h2.bytes _ (List.not_mem_nil)).trans (h.2.1 k v hk).2⟩

/-- `Push16` alone (R70). -/
theorem pushed_push16 (s : State) (v : Word) : Pushed s (s.push16 v) [v] [] [] :=
  Pushed.push (Pushed.nil s) v rfl (by decide)

end Sys2Proof.Machine
end

