-- ==== Sys2Proof/Laws/Flags.lean ====
section
/-! SUPPORT. The flags of an addition, a subtraction and a logical result meet the spec's arithmetic reading of them
(spec/10_state.md R34 to R37), and the FLAGS image and its inverse (R31). -/

namespace Sys2Proof.Machine

variable {w : Nat}

theorem szpOf_setSZP (hw : 0 < w) (r : BitVec w) (f : Flags) : SzpOf r (f.setSZP r) := by
  refine ⟨?_, ?_, ?_⟩
  · simp [Flags.setSZP, ← BitVec.toNat_inj]
  · simp only [Flags.setSZP, BitVec.msb_eq_decide, decide_eq_true_eq]
    have : 2 ^ w = 2 * 2 ^ (w - 1) := by rw [← Nat.pow_succ']; congr; omega
    omega
  · simp only [Flags.setSZP, parityEven, EvenOnes]
    have h (k : Nat) (hk : k < 8) : (r.setWidth 8).getLsbD k = r.getLsbD k := by simp [hk]
    rw [h 0 (by decide), h 1 (by decide), h 2 (by decide), h 3 (by decide), h 4 (by decide), h 5 (by decide),
      h 6 (by decide), h 7 (by decide)]
    have hr : List.range 8 = [0, 1, 2, 3, 4, 5, 6, 7] := rfl
    rw [hr]
    simp only [List.filter_cons, List.filter_nil]
    generalize r.getLsbD 0 = b0, r.getLsbD 1 = b1, r.getLsbD 2 = b2, r.getLsbD 3 = b3, r.getLsbD 4 = b4,
      r.getLsbD 5 = b5, r.getLsbD 6 = b6, r.getLsbD 7 = b7
    revert b0 b1 b2 b3 b4 b5 b6 b7
    decide

/-- Only ZF, SF and PF matter to `SzpOf`. -/
theorem SzpOf.congr {r : BitVec w} {g h : Flags} (hg : SzpOf r g) (hz : h.ZF = g.ZF) (hs : h.SF = g.SF)
    (hp : h.PF = g.PF) : SzpOf r h :=
  ⟨by rw [hz]; exact hg.zf, by rw [hs]; exact hg.sf, by rw [hp]; exact hg.pf⟩

theorem two_pow_pred (hw : 0 < w) : 2 ^ w = 2 * 2 ^ (w - 1) := by
  rw [← Nat.pow_succ']; congr; omega

/-- The three-input addition (R34). -/
theorem addSets_addFlags (hw : 0 < w) (a b : BitVec w) (c : Bool) (f : Flags) :
    AddSets a b c (BitVec.ofNat w (a.toNat + b.toNat + c.toNat)) f (addFlags a b c f) := by
  refine ⟨by simp [addFlags], by simp [addFlags], ?_,
    (szpOf_setSZP hw (BitVec.ofNat w (a.toNat + b.toNat + c.toNat)) f).congr rfl rfl rfl, ⟨rfl, rfl, rfl⟩⟩
  have h2 := two_pow_pred hw
  have ha := a.isLt
  have hb := b.isLt
  have hc : c.toNat ≤ 1 := Bool.toNat_le c
  have hsum : (a.toNat + b.toNat + c.toNat) % 2 ^ w =
      if a.toNat + b.toNat + c.toNat < 2 ^ w then a.toNat + b.toNat + c.toNat else a.toNat + b.toNat + c.toNat - 2 ^ w := by
    split
    · exact Nat.mod_eq_of_lt ‹_›
    · rw [Nat.mod_eq_sub_mod (by omega), Nat.mod_eq_of_lt (by omega)]
  simp only [addFlags, addResult, BitVec.msb_eq_decide, BitVec.toNat_ofNat, hsum, BitVec.toInt_eq_toNat_cond]
  have hpz : ((2 ^ w : Nat) : Int) = (2 : Int) ^ w := by simp
  rw [← hpz]
  generalize 2 ^ w = W at *
  generalize 2 ^ (w - 1) = V at *
  generalize a.toNat = x at *
  generalize b.toNat = y at *
  generalize c.toNat = z at *
  simp only [Bool.and_eq_true, beq_iff_eq, bne_iff_ne, decide_eq_decide, ne_eq]
  split <;> split <;> split <;> omega

theorem toNat_subResult (a b : BitVec w) (c : Bool) (hw : 0 < w) :
    (subResult a b c).toNat =
      if b.toNat + c.toNat ≤ a.toNat then a.toNat - b.toNat - c.toNat else 2 ^ w + a.toNat - b.toNat - c.toNat := by
  have ha := a.isLt
  have hb := b.isLt
  have hc : c.toNat ≤ 1 := Bool.toNat_le c
  have hpz : ((2 ^ w : Nat) : Int) = (2 : Int) ^ w := by simp
  have h1 : 1 < 2 ^ w := Nat.one_lt_two_pow (by omega)
  simp only [subResult, BitVec.toNat_ofInt]
  generalize 2 ^ w = W at *
  split
  · rw [Int.emod_eq_of_lt (by omega) (by omega)]; omega
  · have h := Int.add_emod_right ((a.toNat : Int) - b.toNat - c.toNat) W
    rw [← h, Int.emod_eq_of_lt (by omega) (by omega)]
    omega

theorem difference_eq (hw : 0 < w) (a b : BitVec w) (c : Bool) : difference a b c = subResult a b c := by
  apply BitVec.eq_of_toNat_eq
  rw [toNat_subResult a b c hw]
  have ha := a.isLt
  have hb := b.isLt
  have hc : c.toNat ≤ 1 := Bool.toNat_le c
  have h1 : 1 < 2 ^ w := Nat.one_lt_two_pow (by omega)
  simp only [difference, BitVec.toNat_ofNat]
  generalize 2 ^ w = W at *
  split
  · rw [Nat.mod_eq_sub_mod (by omega), Nat.mod_eq_sub_mod (by omega), Nat.mod_eq_of_lt (by omega)]; omega
  · rw [Nat.mod_eq_sub_mod (by omega), Nat.mod_eq_of_lt (by omega)]; omega

/-- The three-input subtraction (R35). -/
theorem subSets_subFlags (hw : 0 < w) (a b : BitVec w) (c : Bool) (f : Flags) :
    SubSets a b c (difference a b c) f (subFlags a b c f) := by
  rw [difference_eq hw]
  refine ⟨by simp [subFlags], by simp [subFlags], ?_, (szpOf_setSZP hw (subResult a b c) f).congr rfl rfl rfl,
    ⟨rfl, rfl, rfl⟩⟩
  have h2 := two_pow_pred hw
  have ha := a.isLt
  have hb := b.isLt
  have hc : c.toNat ≤ 1 := Bool.toNat_le c
  simp only [subFlags, BitVec.msb_eq_decide, toNat_subResult a b c hw, BitVec.toInt_eq_toNat_cond]
  have hpz : ((2 ^ w : Nat) : Int) = (2 : Int) ^ w := by simp
  rw [← hpz]
  generalize 2 ^ w = W at *
  generalize 2 ^ (w - 1) = V at *
  generalize a.toNat = x at *
  generalize b.toNat = y at *
  generalize c.toNat = z at *
  simp only [Bool.and_eq_true, bne_iff_ne, decide_eq_decide, ne_eq]
  split <;> split <;> split <;> omega

/-- A logical result (R36). -/
theorem logicSets_logicFlags (hw : 0 < w) (r : BitVec w) (f : Flags) : LogicSets r f (logicFlags r f) :=
  ⟨rfl, rfl, rfl, (szpOf_setSZP hw r f).congr rfl rfl rfl, ⟨rfl, rfl, rfl⟩⟩

/-! ### The image (R31) -/

theorem flagsFrom_ofImage (v : Word) : FlagsFrom v (Flags.ofImage v) := ⟨rfl, rfl, rfl, rfl, rfl, rfl, rfl, rfl, rfl⟩

/-- The bits of the image are the flags. -/
theorem flagsFrom_image (f : Flags) : FlagsFrom f.image f := by
  obtain ⟨c, p, a, z, s, t, i, d, o⟩ := f
  constructor <;> (revert c p a z s t i d o; decide)

theorem FlagsFrom.unique {v : Word} {f g : Flags} (hf : FlagsFrom v f) (hg : FlagsFrom v g) : f = g := by
  cases f; cases g
  have ⟨a1, a2, a3, a4, a5, a6, a7, a8, a9⟩ := hf
  have ⟨b1, b2, b3, b4, b5, b6, b7, b8, b9⟩ := hg
  simp_all

theorem ofImage_image (f : Flags) : Flags.ofImage f.image = f :=
  (flagsFrom_ofImage _).unique (flagsFrom_image f)

end Sys2Proof.Machine
end

