-- ==== Sys2Proof/Laws/Interrupt.lean ====
section
/-! SUPPORT. What taking an interrupt and returning from one do (spec/60_exceptions.md R412 to R414,
43_control_transfer.md R300), said once. -/

namespace Sys2Proof.Machine

theorem above_two (s : State) (k : Nat) : s.above k + 2#16 = s.above (k + 2) := by
  have h : BitVec.ofNat 16 (k + 2) = BitVec.ofNat 16 k + 2#16 := by
    apply BitVec.eq_of_toNat_eq; simp
  simp only [State.above, h]; bv_omega

@[simp] theorem above_zero (s : State) : s.above 0 = s.reg16 .sp := by simp [State.above]

theorem State.top16_eq (s : State) : s.top16 = s.stackWord 0 := by simp [State.top16, State.stackWord]

/-- The word on top after words have been dropped: only SP has moved. -/
theorem State.top16_of {s t : State} {k : Nat} (hm : t.mem = s.mem) (hs : t.seg .ss = s.seg .ss)
    (hp : t.reg16 .sp = s.above (2 * k)) : t.top16 = s.stackWord k := by
  simp [State.top16, State.stackWord, hs, hp, State.read16_congr hm]

/-- The IRET sequence (R300). -/
theorem returned_iret (s : State) : Returned s s.iret := by
  have h1 : s.top16 = s.stackWord 0 := State.top16_eq s
  have h2 : (s.drop16.setIp s.top16).top16 = s.stackWord 1 :=
    State.top16_of rfl rfl (by simp [State.above])
  have hsp2 : ((s.drop16.setIp s.top16).drop16.setSeg .cs (s.drop16.setIp s.top16).top16).reg16 .sp = s.above 4 := by
    simp only [State.reg16_setSeg, State.reg16_drop16, State.reg16_setIp, if_true]
    have := above_two s 2
    have h0 := above_two s 0
    simp only [above_zero] at h0
    rw [h0, this]
  have h3 : ((s.drop16.setIp s.top16).drop16.setSeg .cs (s.drop16.setIp s.top16).top16).top16 = s.stackWord 2 :=
    State.top16_of rfl rfl hsp2
  refine ⟨?_, ?_, ?_, ?_, ?_⟩
  · simpa [State.iret] using h1
  · simpa [State.iret] using h2
  · simp only [State.iret, State.setFlags_flags, h3]; exact flagsFrom_ofImage _
  · have := above_two s 4
    simp only [State.iret, State.reg16_setFlags, State.reg16_drop16, if_true] at hsp2 ⊢
    rw [← this, ← hsp2]
  · have c1 : Changes s (s.drop16.setIp s.top16) [.sp] [] [.ip] :=
      (changes_drop16 s).trans (changes_setIp _ _) (by simp) (by simp) (by simp)
    have c2 := (c1.trans (changes_drop16 _) (r := [.sp]) (b := []) (p := [.ip]) (by simp) (by simp) (by simp)).trans
      (changes_setCs _ (s.drop16.setIp s.top16).top16) (r := [.sp]) (b := []) (p := [.cs, .ip]) (by simp) (by simp)
      (by simp)
    exact (c2.trans (changes_drop16 _) (r := [.sp]) (b := []) (p := [.cs, .ip]) (by simp) (by simp) (by simp)).trans
      (changes_setFlags _ _) (by simp) (by simp) (by simp)

/-- The three pushes of interrupt entry (R412). -/
theorem framed_pushFrame (s : State) : Framed s s.pushFrame := by
  refine ⟨?_, rfl⟩
  have p1 := pushed_push16 s s.flags.image
  have p2 := p1.trans (changes_setFlags _ (s.push16 s.flags.image).flags.masked) (p := [.flags]) (by simp)
  have p3 := p2.push ((s.push16 s.flags.image).setFlags (s.push16 s.flags.image).flags.masked |>.seg .cs) rfl (by simp)
  exact p3.push _ rfl (by simp)

/-- Taking an interrupt (R412). -/
theorem raised_interrupt (s : State) (n : Byte) : Raised s (s.interrupt n) n := by
  have hs : s.pushFrame.hasHandler n = s.handler.getLsbD n.toNat := rfl
  simp only [State.interrupt]
  by_cases hh : s.pushFrame.hasHandler n = true
  · rw [if_pos hh]
    exact Or.inl ⟨hs ▸ hh, s.pushFrame, framed_pushFrame s, returned_iret _⟩
  · rw [if_neg hh]
    refine Or.inr ⟨by simpa [hs] using hh, ?_, rfl, ?_, ?_⟩
    · have h := (framed_pushFrame s).1
      have c := (changes_setCs s.pushFrame (s.pushFrame.physWord (4 * n.toNat + 2))).trans
        (changes_setIp _ (s.pushFrame.physWord (4 * n.toNat))) (r := []) (b := []) (p := [.cs, .ip]) (by simp) (by simp)
        (by simp)
      exact h.trans c (by simp)
    · rfl
    · simp [State.throughVector, State.physWord, Nat.add_assoc]

end Sys2Proof.Machine
end

