-- ==== Sys2Proof/Laws/Operations.lean ====
section
/-! SUPPORT. What the shared operations behind the meanings do, one lemma each: the two-operand template, INC and DEC,
the shifts, the branches, the string elements. -/

namespace Sys2Proof.Machine

variable (s : State)

@[simp] theorem State.flags_put8 (l : Loc Reg8) (v : Byte) : (s.put8 l v).flags = s.flags := by cases l <;> rfl
@[simp] theorem State.flags_put16 (l : Loc Reg16) (v : Word) : (s.put16 l v).flags = s.flags := by cases l <;> rfl

/-! ### The two-operand template (40_arithmetic.md R140) -/

theorem alu8_stores {op : AluOp} (h : op.stores = true) (e : Eb) (b : Byte) :
    Wrote8 s (s.alu8 op (s.loc e) b) e (op.result (s.readEb e) b s.flags) [.flags] ∧
      (s.alu8 op (s.loc e) b).flags = op.flags (s.readEb e) b s.flags := by
  simp only [State.alu8, h, if_true, State.readEb]
  exact ⟨wrote8_put8 (changes_setFlags _ _) _ _, by simp⟩

theorem alu16_stores {op : AluOp} (h : op.stores = true) (e : Ew) (b : Word) :
    Wrote16 s (s.alu16 op (s.loc e) b) e (op.result (s.readEw e) b s.flags) [.flags] ∧
      (s.alu16 op (s.loc e) b).flags = op.flags (s.readEw e) b s.flags := by
  simp only [State.alu16, h, if_true, State.readEw]
  exact ⟨wrote16_put16 (changes_setFlags _ _) _ _, by simp⟩

theorem alu8_add (e : Eb) (b : Byte) : Added8 s (s.alu8 .add (s.loc e) b) e (s.readEb e) b false := by
  have h := alu8_stores s (op := .add) rfl e b
  exact ⟨h.1, h.2 ▸ addSets_addFlags (by decide) _ _ _ _⟩

theorem alu16_add (e : Ew) (b : Word) : Added16 s (s.alu16 .add (s.loc e) b) e (s.readEw e) b false := by
  have h := alu16_stores s (op := .add) rfl e b
  exact ⟨h.1, h.2 ▸ addSets_addFlags (by decide) _ _ _ _⟩

theorem alu8_adc (e : Eb) (b : Byte) : Added8 s (s.alu8 .adc (s.loc e) b) e (s.readEb e) b s.flags.CF := by
  have h := alu8_stores s (op := .adc) rfl e b
  exact ⟨h.1, h.2 ▸ addSets_addFlags (by decide) _ _ _ _⟩

theorem alu16_adc (e : Ew) (b : Word) : Added16 s (s.alu16 .adc (s.loc e) b) e (s.readEw e) b s.flags.CF := by
  have h := alu16_stores s (op := .adc) rfl e b
  exact ⟨h.1, h.2 ▸ addSets_addFlags (by decide) _ _ _ _⟩

theorem alu8_sub (e : Eb) (b : Byte) : Subtracted8 s (s.alu8 .sub (s.loc e) b) e (s.readEb e) b false := by
  have h := alu8_stores s (op := .sub) rfl e b
  exact ⟨difference_eq (w := 8) (by decide) _ _ _ ▸ h.1, h.2 ▸ subSets_subFlags (by decide) _ _ _ _⟩

theorem alu16_sub (e : Ew) (b : Word) : Subtracted16 s (s.alu16 .sub (s.loc e) b) e (s.readEw e) b false := by
  have h := alu16_stores s (op := .sub) rfl e b
  exact ⟨difference_eq (w := 16) (by decide) _ _ _ ▸ h.1, h.2 ▸ subSets_subFlags (by decide) _ _ _ _⟩

theorem alu8_sbb (e : Eb) (b : Byte) : Subtracted8 s (s.alu8 .sbb (s.loc e) b) e (s.readEb e) b s.flags.CF := by
  have h := alu8_stores s (op := .sbb) rfl e b
  exact ⟨difference_eq (w := 8) (by decide) _ _ _ ▸ h.1, h.2 ▸ subSets_subFlags (by decide) _ _ _ _⟩

theorem alu16_sbb (e : Ew) (b : Word) : Subtracted16 s (s.alu16 .sbb (s.loc e) b) e (s.readEw e) b s.flags.CF := by
  have h := alu16_stores s (op := .sbb) rfl e b
  exact ⟨difference_eq (w := 16) (by decide) _ _ _ ▸ h.1, h.2 ▸ subSets_subFlags (by decide) _ _ _ _⟩

theorem alu8_cmp (l : Loc Reg8) (b : Byte) : Compared s (s.alu8 .cmp l b) (s.get8 l) b :=
  ⟨changes_setFlags _ _, subSets_subFlags (by decide) _ _ _ _⟩

theorem alu16_cmp (l : Loc Reg16) (b : Word) : Compared s (s.alu16 .cmp l b) (s.get16 l) b :=
  ⟨changes_setFlags _ _, subSets_subFlags (by decide) _ _ _ _⟩

theorem alu8_and (e : Eb) (b : Byte) : Logical8 s (s.alu8 .and (s.loc e) b) e (s.readEb e &&& b) := by
  have h := alu8_stores s (op := .and) rfl e b
  exact ⟨h.1, h.2 ▸ logicSets_logicFlags (by decide) _ _⟩

theorem alu16_and (e : Ew) (b : Word) : Logical16 s (s.alu16 .and (s.loc e) b) e (s.readEw e &&& b) := by
  have h := alu16_stores s (op := .and) rfl e b
  exact ⟨h.1, h.2 ▸ logicSets_logicFlags (by decide) _ _⟩

theorem alu8_or (e : Eb) (b : Byte) : Logical8 s (s.alu8 .or (s.loc e) b) e (s.readEb e ||| b) := by
  have h := alu8_stores s (op := .or) rfl e b
  exact ⟨h.1, h.2 ▸ logicSets_logicFlags (by decide) _ _⟩

theorem alu16_or (e : Ew) (b : Word) : Logical16 s (s.alu16 .or (s.loc e) b) e (s.readEw e ||| b) := by
  have h := alu16_stores s (op := .or) rfl e b
  exact ⟨h.1, h.2 ▸ logicSets_logicFlags (by decide) _ _⟩

theorem alu8_xor (e : Eb) (b : Byte) : Logical8 s (s.alu8 .xor (s.loc e) b) e (s.readEb e ^^^ b) := by
  have h := alu8_stores s (op := .xor) rfl e b
  exact ⟨h.1, h.2 ▸ logicSets_logicFlags (by decide) _ _⟩

theorem alu16_xor (e : Ew) (b : Word) : Logical16 s (s.alu16 .xor (s.loc e) b) e (s.readEw e ^^^ b) := by
  have h := alu16_stores s (op := .xor) rfl e b
  exact ⟨h.1, h.2 ▸ logicSets_logicFlags (by decide) _ _⟩

/-! ### INC and DEC (R148, R149) -/

theorem inc8_spec (e : Eb) : Wrote8 s (s.inc8 (s.loc e)) e (BitVec.ofNat 8 ((s.readEb e).toNat + 1)) [.flags] ∧
    (s.inc8 (s.loc e)).flags = incFlags (s.readEb e) s.flags := by
  refine ⟨?_, by simp [State.inc8, State.readEb]⟩
  have h := wrote8_put8 (changes_setFlags s (incFlags (s.readEb e) s.flags)) e (addResult (s.readEb e) 1#8 false)
  exact h

theorem inc16_spec (e : Ew) : Wrote16 s (s.inc16 (s.loc e)) e (BitVec.ofNat 16 ((s.readEw e).toNat + 1)) [.flags] ∧
    (s.inc16 (s.loc e)).flags = incFlags (s.readEw e) s.flags := by
  refine ⟨?_, by simp [State.inc16, State.readEw]⟩
  have h := wrote16_put16 (changes_setFlags s (incFlags (s.readEw e) s.flags)) e (addResult (s.readEw e) 1#16 false)
  exact h

theorem dec8_spec (e : Eb) : Wrote8 s (s.dec8 (s.loc e)) e (difference (s.readEb e) 1#8 false) [.flags] ∧
    (s.dec8 (s.loc e)).flags = decFlags (s.readEb e) s.flags := by
  refine ⟨?_, by simp [State.dec8, State.readEb]⟩
  rw [difference_eq (by decide)]
  exact wrote8_put8 (changes_setFlags s (decFlags (s.readEb e) s.flags)) e _

theorem dec16_spec (e : Ew) : Wrote16 s (s.dec16 (s.loc e)) e (difference (s.readEw e) 1#16 false) [.flags] ∧
    (s.dec16 (s.loc e)).flags = decFlags (s.readEw e) s.flags := by
  refine ⟨?_, by simp [State.dec16, State.readEw]⟩
  rw [difference_eq (by decide)]
  exact wrote16_put16 (changes_setFlags s (decFlags (s.readEw e) s.flags)) e _

theorem carryKept_inc {w : Nat} (a : BitVec w) (f : Flags) : CarryKept f (incFlags a f) (addFlags a 1#w false f) :=
  ⟨rfl, rfl, rfl, rfl, rfl, rfl, ⟨rfl, rfl, rfl⟩⟩

theorem carryKept_dec {w : Nat} (a : BitVec w) (f : Flags) : CarryKept f (decFlags a f) (subFlags a 1#w false f) :=
  ⟨rfl, rfl, rfl, rfl, rfl, rfl, ⟨rfl, rfl, rfl⟩⟩

/-! ### Branches (43_control_transfer.md R286, R107) -/

theorem add_sext16 (ip : Word) (d : Byte) : ip + sext16 d = BitVec.ofInt 16 (ip.toNat + d.toInt) := by
  have hs : (d.signExtend 16).toInt = d.toInt := by
    rw [BitVec.toInt_signExtend_of_le (by decide)]
  rw [← hs]
  apply BitVec.eq_of_toInt_eq
  simp [sext16, BitVec.toInt_add, BitVec.toInt_ofInt, BitVec.toInt_eq_toNat_bmod (x := ip)]

theorem branched_jumpIf {p : Prop} {c : Bool} (h : c = true ↔ p) (d : Byte) : Branched s (s.jumpIf c d) p d := by
  refine ⟨fun hp => ?_, fun hp => ?_, ?_⟩
  · rw [h.mpr hp]; exact add_sext16 _ _
  · rw [Bool.eq_false_iff.mpr fun hc => hp (h.mp hc)]; rfl
  · cases c
    · exact (Changes.refl s).mono (by simp) (by simp) (by simp)
    · exact changes_setIp _ _

end Sys2Proof.Machine
end

