-- ==== Sys2Proof/Laws/PerInstr.lean ====
section
/-! SUPPORT. A statement about every instruction as syntax, one lemma per constructor: how its encoding begins and how
long it is (spec/30_encoding.md R90, R93, R127). -/

namespace Sys2Proof.Laws

/-- One to six bytes, the first of which is none of the bytes of R94. -/
def Begins (bs : List Byte) : Prop := ∃ op tail, bs = op :: tail ∧ Prefix.ofByte? op = none ∧ tail.length ≤ 5

theorem begins_cons {op : Byte} {tail : List Byte} (h : Prefix.ofByte? op = none) (hl : tail.length ≤ 5) : Begins (op :: tail) :=
  ⟨op, tail, rfl, h, hl⟩

theorem encM_cons (reg : BitVec 3) (op : Byte) (m : MemForm) : ∃ tail, encM reg op m = op :: tail ∧ tail.length ≤ 3 :=
  ⟨_, rfl, by cases m <;> simp [MemForm.dispBytes]⟩

theorem encE_cons {R : Type} (bits : R → BitVec 3) (reg : BitVec 3) (op : Byte) (e : RM R) :
    ∃ tail, encE bits reg op e = op :: tail ∧ tail.length ≤ 3 := by
  cases e with
  | reg r => exact ⟨_, rfl, by simp⟩
  | mem m => exact encM_cons reg op m

theorem begins_encM {reg : BitVec 3} {op : Byte} {m : MemForm} (h : Prefix.ofByte? op = none) : Begins (encM reg op m) := by
  obtain ⟨tail, e, hl⟩ := encM_cons reg op m
  exact e ▸ begins_cons h (by omega)

theorem begins_encE {R : Type} {bits : R → BitVec 3} {reg : BitVec 3} {op : Byte} {e : RM R} (h : Prefix.ofByte? op = none) :
    Begins (encE bits reg op e) := by
  obtain ⟨tail, e, hl⟩ := encE_cons bits reg op e
  exact e ▸ begins_cons h (by omega)

theorem begins_encE_imm {R : Type} {bits : R → BitVec 3} {reg : BitVec 3} {op : Byte} {e : RM R} {imm : List Byte}
    (h : Prefix.ofByte? op = none) (hi : imm.length ≤ 2) : Begins (encE bits reg op e ++ imm) := by
  obtain ⟨tail, e, hl⟩ := encE_cons bits reg op e
  rw [e, List.cons_append]
  exact begins_cons h (by simp; omega)

/-- The bytes of R127 that are not a run of bytes of R94. -/
theorem begins_invalid (isa186 : Bool) (raw : List Byte) (h : invalidRaw isa186 raw = true) (hr : runawayRaw raw = false) :
    Begins raw := by
  have h1 : ∀ (b : Bool) (op : Byte), invalidOpcode b op = true → Prefix.ofByte? op = none := by decide
  unfold invalidRaw at h
  split at h
  · exact begins_cons (h1 _ _ h) (by simp)
  · rename_i op modrm
    refine begins_cons ?_ (by simp)
    cases hp : Prefix.ofByte? op with
    | none => rfl
    | some p =>
      have e := Prefix.byte_of_ofByte? hp
      subst e
      cases p <;> simp [invalidModRM, Prefix.byte] at h
  · rw [h] at hr
    cases hr

namespace EncodeShape

/-- THE FAMILY: where a machine has the instruction and it is none of the bytes of R94, its encoding begins with a byte
that is none of them and has at most six bytes. -/
def Statement (i : Instr) : Prop :=
  ∀ isa186, i.wf isa186 = true → i.isPrefix = false → i.isRunaway = false → Begins (encode i)

theorem addEbGb (e : Eb) (g : Reg8) : Statement (.addEbGb e g) := fun _ _ _ _ => begins_encE rfl
theorem addEwGw (e : Ew) (g : Reg16) : Statement (.addEwGw e g) := fun _ _ _ _ => begins_encE rfl
theorem addGbEb (g : Reg8) (e : Eb) : Statement (.addGbEb g e) := fun _ _ _ _ => begins_encE rfl
theorem addGwEw (g : Reg16) (e : Ew) : Statement (.addGwEw g e) := fun _ _ _ _ => begins_encE rfl
theorem addAlIb (b : Byte) : Statement (.addAlIb b) := fun _ _ _ _ => begins_cons rfl (by simp)
theorem addAxIw (w : Word) : Statement (.addAxIw w) := fun _ _ _ _ => begins_cons rfl (by simp)
theorem addEbIb (e : Eb) (b : Byte) : Statement (.addEbIb e b) := fun _ _ _ _ => begins_encE_imm rfl (by simp)
theorem addEwIw (e : Ew) (w : Word) : Statement (.addEwIw e w) := fun _ _ _ _ => begins_encE_imm rfl (by simp)
theorem addEwIb (e : Ew) (b : Byte) : Statement (.addEwIb e b) := fun _ _ _ _ => begins_encE_imm rfl (by simp)
theorem orEbGb (e : Eb) (g : Reg8) : Statement (.orEbGb e g) := fun _ _ _ _ => begins_encE rfl
theorem orEwGw (e : Ew) (g : Reg16) : Statement (.orEwGw e g) := fun _ _ _ _ => begins_encE rfl
theorem orGbEb (g : Reg8) (e : Eb) : Statement (.orGbEb g e) := fun _ _ _ _ => begins_encE rfl
theorem orGwEw (g : Reg16) (e : Ew) : Statement (.orGwEw g e) := fun _ _ _ _ => begins_encE rfl
theorem orAlIb (b : Byte) : Statement (.orAlIb b) := fun _ _ _ _ => begins_cons rfl (by simp)
theorem orAxIw (w : Word) : Statement (.orAxIw w) := fun _ _ _ _ => begins_cons rfl (by simp)
theorem orEbIb (e : Eb) (b : Byte) : Statement (.orEbIb e b) := fun _ _ _ _ => begins_encE_imm rfl (by simp)
theorem orEwIw (e : Ew) (w : Word) : Statement (.orEwIw e w) := fun _ _ _ _ => begins_encE_imm rfl (by simp)
theorem orEwIb (e : Ew) (b : Byte) : Statement (.orEwIb e b) := fun _ _ _ _ => begins_encE_imm rfl (by simp)
theorem adcEbGb (e : Eb) (g : Reg8) : Statement (.adcEbGb e g) := fun _ _ _ _ => begins_encE rfl
theorem adcEwGw (e : Ew) (g : Reg16) : Statement (.adcEwGw e g) := fun _ _ _ _ => begins_encE rfl
theorem adcGbEb (g : Reg8) (e : Eb) : Statement (.adcGbEb g e) := fun _ _ _ _ => begins_encE rfl
theorem adcGwEw (g : Reg16) (e : Ew) : Statement (.adcGwEw g e) := fun _ _ _ _ => begins_encE rfl
theorem adcAlIb (b : Byte) : Statement (.adcAlIb b) := fun _ _ _ _ => begins_cons rfl (by simp)
theorem adcAxIw (w : Word) : Statement (.adcAxIw w) := fun _ _ _ _ => begins_cons rfl (by simp)
theorem adcEbIb (e : Eb) (b : Byte) : Statement (.adcEbIb e b) := fun _ _ _ _ => begins_encE_imm rfl (by simp)
theorem adcEwIw (e : Ew) (w : Word) : Statement (.adcEwIw e w) := fun _ _ _ _ => begins_encE_imm rfl (by simp)
theorem adcEwIb (e : Ew) (b : Byte) : Statement (.adcEwIb e b) := fun _ _ _ _ => begins_encE_imm rfl (by simp)
theorem sbbEbGb (e : Eb) (g : Reg8) : Statement (.sbbEbGb e g) := fun _ _ _ _ => begins_encE rfl
theorem sbbEwGw (e : Ew) (g : Reg16) : Statement (.sbbEwGw e g) := fun _ _ _ _ => begins_encE rfl
theorem sbbGbEb (g : Reg8) (e : Eb) : Statement (.sbbGbEb g e) := fun _ _ _ _ => begins_encE rfl
theorem sbbGwEw (g : Reg16) (e : Ew) : Statement (.sbbGwEw g e) := fun _ _ _ _ => begins_encE rfl
theorem sbbAlIb (b : Byte) : Statement (.sbbAlIb b) := fun _ _ _ _ => begins_cons rfl (by simp)
theorem sbbAxIw (w : Word) : Statement (.sbbAxIw w) := fun _ _ _ _ => begins_cons rfl (by simp)
theorem sbbEbIb (e : Eb) (b : Byte) : Statement (.sbbEbIb e b) := fun _ _ _ _ => begins_encE_imm rfl (by simp)
theorem sbbEwIw (e : Ew) (w : Word) : Statement (.sbbEwIw e w) := fun _ _ _ _ => begins_encE_imm rfl (by simp)
theorem sbbEwIb (e : Ew) (b : Byte) : Statement (.sbbEwIb e b) := fun _ _ _ _ => begins_encE_imm rfl (by simp)
theorem andEbGb (e : Eb) (g : Reg8) : Statement (.andEbGb e g) := fun _ _ _ _ => begins_encE rfl
theorem andEwGw (e : Ew) (g : Reg16) : Statement (.andEwGw e g) := fun _ _ _ _ => begins_encE rfl
theorem andGbEb (g : Reg8) (e : Eb) : Statement (.andGbEb g e) := fun _ _ _ _ => begins_encE rfl
theorem andGwEw (g : Reg16) (e : Ew) : Statement (.andGwEw g e) := fun _ _ _ _ => begins_encE rfl
theorem andAlIb (b : Byte) : Statement (.andAlIb b) := fun _ _ _ _ => begins_cons rfl (by simp)
theorem andAxIw (w : Word) : Statement (.andAxIw w) := fun _ _ _ _ => begins_cons rfl (by simp)
theorem andEbIb (e : Eb) (b : Byte) : Statement (.andEbIb e b) := fun _ _ _ _ => begins_encE_imm rfl (by simp)
theorem andEwIw (e : Ew) (w : Word) : Statement (.andEwIw e w) := fun _ _ _ _ => begins_encE_imm rfl (by simp)
theorem andEwIb (e : Ew) (b : Byte) : Statement (.andEwIb e b) := fun _ _ _ _ => begins_encE_imm rfl (by simp)
theorem subEbGb (e : Eb) (g : Reg8) : Statement (.subEbGb e g) := fun _ _ _ _ => begins_encE rfl
theorem subEwGw (e : Ew) (g : Reg16) : Statement (.subEwGw e g) := fun _ _ _ _ => begins_encE rfl
theorem subGbEb (g : Reg8) (e : Eb) : Statement (.subGbEb g e) := fun _ _ _ _ => begins_encE rfl
theorem subGwEw (g : Reg16) (e : Ew) : Statement (.subGwEw g e) := fun _ _ _ _ => begins_encE rfl
theorem subAlIb (b : Byte) : Statement (.subAlIb b) := fun _ _ _ _ => begins_cons rfl (by simp)
theorem subAxIw (w : Word) : Statement (.subAxIw w) := fun _ _ _ _ => begins_cons rfl (by simp)
theorem subEbIb (e : Eb) (b : Byte) : Statement (.subEbIb e b) := fun _ _ _ _ => begins_encE_imm rfl (by simp)
theorem subEwIw (e : Ew) (w : Word) : Statement (.subEwIw e w) := fun _ _ _ _ => begins_encE_imm rfl (by simp)
theorem subEwIb (e : Ew) (b : Byte) : Statement (.subEwIb e b) := fun _ _ _ _ => begins_encE_imm rfl (by simp)
theorem xorEbGb (e : Eb) (g : Reg8) : Statement (.xorEbGb e g) := fun _ _ _ _ => begins_encE rfl
theorem xorEwGw (e : Ew) (g : Reg16) : Statement (.xorEwGw e g) := fun _ _ _ _ => begins_encE rfl
theorem xorGbEb (g : Reg8) (e : Eb) : Statement (.xorGbEb g e) := fun _ _ _ _ => begins_encE rfl
theorem xorGwEw (g : Reg16) (e : Ew) : Statement (.xorGwEw g e) := fun _ _ _ _ => begins_encE rfl
theorem xorAlIb (b : Byte) : Statement (.xorAlIb b) := fun _ _ _ _ => begins_cons rfl (by simp)
theorem xorAxIw (w : Word) : Statement (.xorAxIw w) := fun _ _ _ _ => begins_cons rfl (by simp)
theorem xorEbIb (e : Eb) (b : Byte) : Statement (.xorEbIb e b) := fun _ _ _ _ => begins_encE_imm rfl (by simp)
theorem xorEwIw (e : Ew) (w : Word) : Statement (.xorEwIw e w) := fun _ _ _ _ => begins_encE_imm rfl (by simp)
theorem xorEwIb (e : Ew) (b : Byte) : Statement (.xorEwIb e b) := fun _ _ _ _ => begins_encE_imm rfl (by simp)
theorem cmpEbGb (e : Eb) (g : Reg8) : Statement (.cmpEbGb e g) := fun _ _ _ _ => begins_encE rfl
theorem cmpEwGw (e : Ew) (g : Reg16) : Statement (.cmpEwGw e g) := fun _ _ _ _ => begins_encE rfl
theorem cmpGbEb (g : Reg8) (e : Eb) : Statement (.cmpGbEb g e) := fun _ _ _ _ => begins_encE rfl
theorem cmpGwEw (g : Reg16) (e : Ew) : Statement (.cmpGwEw g e) := fun _ _ _ _ => begins_encE rfl
theorem cmpAlIb (b : Byte) : Statement (.cmpAlIb b) := fun _ _ _ _ => begins_cons rfl (by simp)
theorem cmpAxIw (w : Word) : Statement (.cmpAxIw w) := fun _ _ _ _ => begins_cons rfl (by simp)
theorem cmpEbIb (e : Eb) (b : Byte) : Statement (.cmpEbIb e b) := fun _ _ _ _ => begins_encE_imm rfl (by simp)
theorem cmpEwIw (e : Ew) (w : Word) : Statement (.cmpEwIw e w) := fun _ _ _ _ => begins_encE_imm rfl (by simp)
theorem cmpEwIb (e : Ew) (b : Byte) : Statement (.cmpEwIb e b) := fun _ _ _ _ => begins_encE_imm rfl (by simp)
theorem incR16 (r : Reg16) : Statement (.incR16 r) := fun _ _ _ _ => begins_cons (by cases r <;> rfl) (by simp)
theorem incEb (e : Eb) : Statement (.incEb e) := fun _ _ _ _ => begins_encE rfl
theorem incEw (e : Ew) : Statement (.incEw e) := fun _ _ _ _ => begins_encE rfl
theorem decR16 (r : Reg16) : Statement (.decR16 r) := fun _ _ _ _ => begins_cons (by cases r <;> rfl) (by simp)
theorem decEb (e : Eb) : Statement (.decEb e) := fun _ _ _ _ => begins_encE rfl
theorem decEw (e : Ew) : Statement (.decEw e) := fun _ _ _ _ => begins_encE rfl
theorem negEb (e : Eb) : Statement (.negEb e) := fun _ _ _ _ => begins_encE rfl
theorem negEw (e : Ew) : Statement (.negEw e) := fun _ _ _ _ => begins_encE rfl
theorem mulEb (e : Eb) : Statement (.mulEb e) := fun _ _ _ _ => begins_encE rfl
theorem mulEw (e : Ew) : Statement (.mulEw e) := fun _ _ _ _ => begins_encE rfl
theorem imulEb (e : Eb) : Statement (.imulEb e) := fun _ _ _ _ => begins_encE rfl
theorem imulEw (e : Ew) : Statement (.imulEw e) := fun _ _ _ _ => begins_encE rfl
theorem divEb (e : Eb) : Statement (.divEb e) := fun _ _ _ _ => begins_encE rfl
theorem divEw (e : Ew) : Statement (.divEw e) := fun _ _ _ _ => begins_encE rfl
theorem idivEb (e : Eb) : Statement (.idivEb e) := fun _ _ _ _ => begins_encE rfl
theorem idivEw (e : Ew) : Statement (.idivEw e) := fun _ _ _ _ => begins_encE rfl
theorem cbw : Statement .cbw := fun _ _ _ _ => begins_cons rfl (by simp)
theorem cwd : Statement .cwd := fun _ _ _ _ => begins_cons rfl (by simp)
theorem daa : Statement .daa := fun _ _ _ _ => begins_cons rfl (by simp)
theorem das : Statement .das := fun _ _ _ _ => begins_cons rfl (by simp)
theorem aaa : Statement .aaa := fun _ _ _ _ => begins_cons rfl (by simp)
theorem aas : Statement .aas := fun _ _ _ _ => begins_cons rfl (by simp)
theorem aamIb (b : Byte) : Statement (.aamIb b) := fun _ _ _ _ => begins_cons rfl (by simp)
theorem aadIb (b : Byte) : Statement (.aadIb b) := fun _ _ _ _ => begins_cons rfl (by simp)
theorem testEbGb (e : Eb) (g : Reg8) : Statement (.testEbGb e g) := fun _ _ _ _ => begins_encE rfl
theorem testEwGw (e : Ew) (g : Reg16) : Statement (.testEwGw e g) := fun _ _ _ _ => begins_encE rfl
theorem testAlIb (b : Byte) : Statement (.testAlIb b) := fun _ _ _ _ => begins_cons rfl (by simp)
theorem testAxIw (w : Word) : Statement (.testAxIw w) := fun _ _ _ _ => begins_cons rfl (by simp)
theorem testEbIb (e : Eb) (b : Byte) : Statement (.testEbIb e b) := fun _ _ _ _ => begins_encE_imm rfl (by simp)
theorem testEwIw (e : Ew) (w : Word) : Statement (.testEwIw e w) := fun _ _ _ _ => begins_encE_imm rfl (by simp)
theorem notEb (e : Eb) : Statement (.notEb e) := fun _ _ _ _ => begins_encE rfl
theorem notEw (e : Ew) : Statement (.notEw e) := fun _ _ _ _ => begins_encE rfl
theorem rolEb1 (e : Eb) : Statement (.rolEb1 e) := fun _ _ _ _ => begins_encE rfl
theorem rolEw1 (e : Ew) : Statement (.rolEw1 e) := fun _ _ _ _ => begins_encE rfl
theorem rolEbCl (e : Eb) : Statement (.rolEbCl e) := fun _ _ _ _ => begins_encE rfl
theorem rolEwCl (e : Ew) : Statement (.rolEwCl e) := fun _ _ _ _ => begins_encE rfl
theorem rolEbIb (e : Eb) (b : Byte) : Statement (.rolEbIb e b) := fun _ _ _ _ => begins_encE_imm rfl (by simp)
theorem rolEwIb (e : Ew) (b : Byte) : Statement (.rolEwIb e b) := fun _ _ _ _ => begins_encE_imm rfl (by simp)
theorem rorEb1 (e : Eb) : Statement (.rorEb1 e) := fun _ _ _ _ => begins_encE rfl
theorem rorEw1 (e : Ew) : Statement (.rorEw1 e) := fun _ _ _ _ => begins_encE rfl
theorem rorEbCl (e : Eb) : Statement (.rorEbCl e) := fun _ _ _ _ => begins_encE rfl
theorem rorEwCl (e : Ew) : Statement (.rorEwCl e) := fun _ _ _ _ => begins_encE rfl
theorem rorEbIb (e : Eb) (b : Byte) : Statement (.rorEbIb e b) := fun _ _ _ _ => begins_encE_imm rfl (by simp)
theorem rorEwIb (e : Ew) (b : Byte) : Statement (.rorEwIb e b) := fun _ _ _ _ => begins_encE_imm rfl (by simp)
theorem rclEb1 (e : Eb) : Statement (.rclEb1 e) := fun _ _ _ _ => begins_encE rfl
theorem rclEw1 (e : Ew) : Statement (.rclEw1 e) := fun _ _ _ _ => begins_encE rfl
theorem rclEbCl (e : Eb) : Statement (.rclEbCl e) := fun _ _ _ _ => begins_encE rfl
theorem rclEwCl (e : Ew) : Statement (.rclEwCl e) := fun _ _ _ _ => begins_encE rfl
theorem rclEbIb (e : Eb) (b : Byte) : Statement (.rclEbIb e b) := fun _ _ _ _ => begins_encE_imm rfl (by simp)
theorem rclEwIb (e : Ew) (b : Byte) : Statement (.rclEwIb e b) := fun _ _ _ _ => begins_encE_imm rfl (by simp)
theorem rcrEb1 (e : Eb) : Statement (.rcrEb1 e) := fun _ _ _ _ => begins_encE rfl
theorem rcrEw1 (e : Ew) : Statement (.rcrEw1 e) := fun _ _ _ _ => begins_encE rfl
theorem rcrEbCl (e : Eb) : Statement (.rcrEbCl e) := fun _ _ _ _ => begins_encE rfl
theorem rcrEwCl (e : Ew) : Statement (.rcrEwCl e) := fun _ _ _ _ => begins_encE rfl
theorem rcrEbIb (e : Eb) (b : Byte) : Statement (.rcrEbIb e b) := fun _ _ _ _ => begins_encE_imm rfl (by simp)
theorem rcrEwIb (e : Ew) (b : Byte) : Statement (.rcrEwIb e b) := fun _ _ _ _ => begins_encE_imm rfl (by simp)
theorem shlEb1 (e : Eb) : Statement (.shlEb1 e) := fun _ _ _ _ => begins_encE rfl
theorem shlEw1 (e : Ew) : Statement (.shlEw1 e) := fun _ _ _ _ => begins_encE rfl
theorem shlEbCl (e : Eb) : Statement (.shlEbCl e) := fun _ _ _ _ => begins_encE rfl
theorem shlEwCl (e : Ew) : Statement (.shlEwCl e) := fun _ _ _ _ => begins_encE rfl
theorem shlEbIb (e : Eb) (b : Byte) : Statement (.shlEbIb e b) := fun _ _ _ _ => begins_encE_imm rfl (by simp)
theorem shlEwIb (e : Ew) (b : Byte) : Statement (.shlEwIb e b) := fun _ _ _ _ => begins_encE_imm rfl (by simp)
theorem shrEb1 (e : Eb) : Statement (.shrEb1 e) := fun _ _ _ _ => begins_encE rfl
theorem shrEw1 (e : Ew) : Statement (.shrEw1 e) := fun _ _ _ _ => begins_encE rfl
theorem shrEbCl (e : Eb) : Statement (.shrEbCl e) := fun _ _ _ _ => begins_encE rfl
theorem shrEwCl (e : Ew) : Statement (.shrEwCl e) := fun _ _ _ _ => begins_encE rfl
theorem shrEbIb (e : Eb) (b : Byte) : Statement (.shrEbIb e b) := fun _ _ _ _ => begins_encE_imm rfl (by simp)
theorem shrEwIb (e : Ew) (b : Byte) : Statement (.shrEwIb e b) := fun _ _ _ _ => begins_encE_imm rfl (by simp)
theorem sarEb1 (e : Eb) : Statement (.sarEb1 e) := fun _ _ _ _ => begins_encE rfl
theorem sarEw1 (e : Ew) : Statement (.sarEw1 e) := fun _ _ _ _ => begins_encE rfl
theorem sarEbCl (e : Eb) : Statement (.sarEbCl e) := fun _ _ _ _ => begins_encE rfl
theorem sarEwCl (e : Ew) : Statement (.sarEwCl e) := fun _ _ _ _ => begins_encE rfl
theorem sarEbIb (e : Eb) (b : Byte) : Statement (.sarEbIb e b) := fun _ _ _ _ => begins_encE_imm rfl (by simp)
theorem sarEwIb (e : Ew) (b : Byte) : Statement (.sarEwIb e b) := fun _ _ _ _ => begins_encE_imm rfl (by simp)
theorem movEbGb (e : Eb) (g : Reg8) : Statement (.movEbGb e g) := fun _ _ _ _ => begins_encE rfl
theorem movEwGw (e : Ew) (g : Reg16) : Statement (.movEwGw e g) := fun _ _ _ _ => begins_encE rfl
theorem movGbEb (g : Reg8) (e : Eb) : Statement (.movGbEb g e) := fun _ _ _ _ => begins_encE rfl
theorem movGwEw (g : Reg16) (e : Ew) : Statement (.movGwEw g e) := fun _ _ _ _ => begins_encE rfl
theorem movEbIb (e : Eb) (b : Byte) : Statement (.movEbIb e b) := fun _ _ _ _ => begins_encE_imm rfl (by simp)
theorem movEwIw (e : Ew) (w : Word) : Statement (.movEwIw e w) := fun _ _ _ _ => begins_encE_imm rfl (by simp)
theorem movR8Ib (r : Reg8) (b : Byte) : Statement (.movR8Ib r b) := fun _ _ _ _ => begins_cons (by cases r <;> rfl) (by simp)
theorem movR16Iw (r : Reg16) (w : Word) : Statement (.movR16Iw r w) := fun _ _ _ _ => begins_cons (by cases r <;> rfl) (by simp)
theorem movAlMoffs (off : Word) : Statement (.movAlMoffs off) := fun _ _ _ _ => begins_cons rfl (by simp)
theorem movAxMoffs (off : Word) : Statement (.movAxMoffs off) := fun _ _ _ _ => begins_cons rfl (by simp)
theorem movMoffsAl (off : Word) : Statement (.movMoffsAl off) := fun _ _ _ _ => begins_cons rfl (by simp)
theorem movMoffsAx (off : Word) : Statement (.movMoffsAx off) := fun _ _ _ _ => begins_cons rfl (by simp)
theorem movEwSw (e : Ew) (sr : SReg) : Statement (.movEwSw e sr) := fun _ _ _ _ => begins_encE rfl
theorem movEsEw (e : Ew) : Statement (.movEsEw e) := fun _ _ _ _ => begins_encE rfl
theorem movSsEw (e : Ew) : Statement (.movSsEw e) := fun _ _ _ _ => begins_encE rfl
theorem movDsEw (e : Ew) : Statement (.movDsEw e) := fun _ _ _ _ => begins_encE rfl
theorem pushR16 (r : Reg16) : Statement (.pushR16 r) := fun _ _ _ _ => begins_cons (by cases r <;> rfl) (by simp)
theorem pushEw (e : Ew) : Statement (.pushEw e) := fun _ _ _ _ => begins_encE rfl
theorem pushEs : Statement .pushEs := fun _ _ _ _ => begins_cons rfl (by simp)
theorem pushCs : Statement .pushCs := fun _ _ _ _ => begins_cons rfl (by simp)
theorem pushSs : Statement .pushSs := fun _ _ _ _ => begins_cons rfl (by simp)
theorem pushDs : Statement .pushDs := fun _ _ _ _ => begins_cons rfl (by simp)
theorem popR16 (r : Reg16) : Statement (.popR16 r) := fun _ _ _ _ => begins_cons (by cases r <;> rfl) (by simp)
theorem popEw (e : Ew) : Statement (.popEw e) := fun _ _ _ _ => begins_encE rfl
theorem popEs : Statement .popEs := fun _ _ _ _ => begins_cons rfl (by simp)
theorem popSs : Statement .popSs := fun _ _ _ _ => begins_cons rfl (by simp)
theorem popDs : Statement .popDs := fun _ _ _ _ => begins_cons rfl (by simp)
theorem xchgEbGb (e : Eb) (g : Reg8) : Statement (.xchgEbGb e g) := fun _ _ _ _ => begins_encE rfl
theorem xchgEwGw (e : Ew) (g : Reg16) : Statement (.xchgEwGw e g) := fun _ _ _ _ => begins_encE rfl
theorem xchgAxCx : Statement .xchgAxCx := fun _ _ _ _ => begins_cons rfl (by simp)
theorem xchgAxDx : Statement .xchgAxDx := fun _ _ _ _ => begins_cons rfl (by simp)
theorem xchgAxBx : Statement .xchgAxBx := fun _ _ _ _ => begins_cons rfl (by simp)
theorem xchgAxSp : Statement .xchgAxSp := fun _ _ _ _ => begins_cons rfl (by simp)
theorem xchgAxBp : Statement .xchgAxBp := fun _ _ _ _ => begins_cons rfl (by simp)
theorem xchgAxSi : Statement .xchgAxSi := fun _ _ _ _ => begins_cons rfl (by simp)
theorem xchgAxDi : Statement .xchgAxDi := fun _ _ _ _ => begins_cons rfl (by simp)
theorem xlat : Statement .xlat := fun _ _ _ _ => begins_cons rfl (by simp)
theorem leaGwM (g : Reg16) (m : MemForm) : Statement (.leaGwM g m) := fun _ _ _ _ => begins_encM rfl
theorem ldsGwM (g : Reg16) (m : MemForm) : Statement (.ldsGwM g m) := fun _ _ _ _ => begins_encM rfl
theorem lesGwM (g : Reg16) (m : MemForm) : Statement (.lesGwM g m) := fun _ _ _ _ => begins_encM rfl
theorem lahf : Statement .lahf := fun _ _ _ _ => begins_cons rfl (by simp)
theorem sahf : Statement .sahf := fun _ _ _ _ => begins_cons rfl (by simp)
theorem pushf : Statement .pushf := fun _ _ _ _ => begins_cons rfl (by simp)
theorem popf : Statement .popf := fun _ _ _ _ => begins_cons rfl (by simp)
theorem inAlIb (b : Byte) : Statement (.inAlIb b) := fun _ _ _ _ => begins_cons rfl (by simp)
theorem inAxIb (b : Byte) : Statement (.inAxIb b) := fun _ _ _ _ => begins_cons rfl (by simp)
theorem inAlDx : Statement .inAlDx := fun _ _ _ _ => begins_cons rfl (by simp)
theorem inAxDx : Statement .inAxDx := fun _ _ _ _ => begins_cons rfl (by simp)
theorem outIbAl (b : Byte) : Statement (.outIbAl b) := fun _ _ _ _ => begins_cons rfl (by simp)
theorem outIbAx (b : Byte) : Statement (.outIbAx b) := fun _ _ _ _ => begins_cons rfl (by simp)
theorem outDxAl : Statement .outDxAl := fun _ _ _ _ => begins_cons rfl (by simp)
theorem outDxAx : Statement .outDxAx := fun _ _ _ _ => begins_cons rfl (by simp)
theorem jmpCb (d : Byte) : Statement (.jmpCb d) := fun _ _ _ _ => begins_cons rfl (by simp)
theorem jmpCw (d : Word) : Statement (.jmpCw d) := fun _ _ _ _ => begins_cons rfl (by simp)
theorem jmpEw (e : Ew) : Statement (.jmpEw e) := fun _ _ _ _ => begins_encE rfl
theorem jmpFar (off : Word) (sel : Word) : Statement (.jmpFar off sel) := fun _ _ _ _ => begins_cons rfl (by simp)
theorem jmpM (m : MemForm) : Statement (.jmpM m) := fun _ _ _ _ => begins_encM rfl
theorem callCw (d : Word) : Statement (.callCw d) := fun _ _ _ _ => begins_cons rfl (by simp)
theorem callEw (e : Ew) : Statement (.callEw e) := fun _ _ _ _ => begins_encE rfl
theorem callFar (off : Word) (sel : Word) : Statement (.callFar off sel) := fun _ _ _ _ => begins_cons rfl (by simp)
theorem callM (m : MemForm) : Statement (.callM m) := fun _ _ _ _ => begins_encM rfl
theorem ret : Statement .ret := fun _ _ _ _ => begins_cons rfl (by simp)
theorem retIw (w : Word) : Statement (.retIw w) := fun _ _ _ _ => begins_cons rfl (by simp)
theorem retf : Statement .retf := fun _ _ _ _ => begins_cons rfl (by simp)
theorem retfIw (w : Word) : Statement (.retfIw w) := fun _ _ _ _ => begins_cons rfl (by simp)
theorem jo (d : Byte) : Statement (.jo d) := fun _ _ _ _ => begins_cons rfl (by simp)
theorem jno (d : Byte) : Statement (.jno d) := fun _ _ _ _ => begins_cons rfl (by simp)
theorem jb (d : Byte) : Statement (.jb d) := fun _ _ _ _ => begins_cons rfl (by simp)
theorem jnb (d : Byte) : Statement (.jnb d) := fun _ _ _ _ => begins_cons rfl (by simp)
theorem je (d : Byte) : Statement (.je d) := fun _ _ _ _ => begins_cons rfl (by simp)
theorem jne (d : Byte) : Statement (.jne d) := fun _ _ _ _ => begins_cons rfl (by simp)
theorem jbe (d : Byte) : Statement (.jbe d) := fun _ _ _ _ => begins_cons rfl (by simp)
theorem ja (d : Byte) : Statement (.ja d) := fun _ _ _ _ => begins_cons rfl (by simp)
theorem js (d : Byte) : Statement (.js d) := fun _ _ _ _ => begins_cons rfl (by simp)
theorem jns (d : Byte) : Statement (.jns d) := fun _ _ _ _ => begins_cons rfl (by simp)
theorem jp (d : Byte) : Statement (.jp d) := fun _ _ _ _ => begins_cons rfl (by simp)
theorem jnp (d : Byte) : Statement (.jnp d) := fun _ _ _ _ => begins_cons rfl (by simp)
theorem jl (d : Byte) : Statement (.jl d) := fun _ _ _ _ => begins_cons rfl (by simp)
theorem jge (d : Byte) : Statement (.jge d) := fun _ _ _ _ => begins_cons rfl (by simp)
theorem jle (d : Byte) : Statement (.jle d) := fun _ _ _ _ => begins_cons rfl (by simp)
theorem jg (d : Byte) : Statement (.jg d) := fun _ _ _ _ => begins_cons rfl (by simp)
theorem loop (d : Byte) : Statement (.loop d) := fun _ _ _ _ => begins_cons rfl (by simp)
theorem loope (d : Byte) : Statement (.loope d) := fun _ _ _ _ => begins_cons rfl (by simp)
theorem loopne (d : Byte) : Statement (.loopne d) := fun _ _ _ _ => begins_cons rfl (by simp)
theorem jcxz (d : Byte) : Statement (.jcxz d) := fun _ _ _ _ => begins_cons rfl (by simp)
theorem intIb (b : Byte) : Statement (.intIb b) := fun _ _ _ _ => begins_cons rfl (by simp)
theorem int3 : Statement .int3 := fun _ _ _ _ => begins_cons rfl (by simp)
theorem into : Statement .into := fun _ _ _ _ => begins_cons rfl (by simp)
theorem iret : Statement .iret := fun _ _ _ _ => begins_cons rfl (by simp)
theorem movsb : Statement .movsb := fun _ _ _ _ => begins_cons rfl (by simp)
theorem movsw : Statement .movsw := fun _ _ _ _ => begins_cons rfl (by simp)
theorem lodsb : Statement .lodsb := fun _ _ _ _ => begins_cons rfl (by simp)
theorem lodsw : Statement .lodsw := fun _ _ _ _ => begins_cons rfl (by simp)
theorem cmpsb : Statement .cmpsb := fun _ _ _ _ => begins_cons rfl (by simp)
theorem cmpsw : Statement .cmpsw := fun _ _ _ _ => begins_cons rfl (by simp)
theorem scasb : Statement .scasb := fun _ _ _ _ => begins_cons rfl (by simp)
theorem scasw : Statement .scasw := fun _ _ _ _ => begins_cons rfl (by simp)
theorem stosb : Statement .stosb := fun _ _ _ _ => begins_cons rfl (by simp)
theorem stosw : Statement .stosw := fun _ _ _ _ => begins_cons rfl (by simp)
theorem clc : Statement .clc := fun _ _ _ _ => begins_cons rfl (by simp)
theorem stc : Statement .stc := fun _ _ _ _ => begins_cons rfl (by simp)
theorem cmc : Statement .cmc := fun _ _ _ _ => begins_cons rfl (by simp)
theorem cld : Statement .cld := fun _ _ _ _ => begins_cons rfl (by simp)
theorem std : Statement .std := fun _ _ _ _ => begins_cons rfl (by simp)
theorem cli : Statement .cli := fun _ _ _ _ => begins_cons rfl (by simp)
theorem sti : Statement .sti := fun _ _ _ _ => begins_cons rfl (by simp)
theorem nop : Statement .nop := fun _ _ _ _ => begins_cons rfl (by simp)
theorem hlt : Statement .hlt := fun _ _ _ _ => begins_cons rfl (by simp)
theorem wait : Statement .wait := fun _ _ _ _ => begins_cons rfl (by simp)
theorem esc (op : BitVec 3) (reg : BitVec 3) (e : Ew) : Statement (.esc op reg e) := fun _ _ _ _ => begins_encE (by clear * -; revert op; decide)
theorem segEs : Statement .segEs := fun _ _ h _ => by cases h
theorem segCs : Statement .segCs := fun _ _ h _ => by cases h
theorem segSs : Statement .segSs := fun _ _ h _ => by cases h
theorem segDs : Statement .segDs := fun _ _ h _ => by cases h
theorem lock : Statement .lock := fun _ _ h _ => by cases h
theorem repne : Statement .repne := fun _ _ h _ => by cases h
theorem rep : Statement .rep := fun _ _ h _ => by cases h
theorem invalid (raw : List Byte) : Statement (.invalid raw) := fun isa186 hw _ hr =>
  begins_invalid isa186 raw (Bool.and_eq_true_iff.mp hw).2 hr
theorem pusha : Statement .pusha := fun _ _ _ _ => begins_cons rfl (by simp)
theorem popa : Statement .popa := fun _ _ _ _ => begins_cons rfl (by simp)
theorem boundGwM (g : Reg16) (m : MemForm) : Statement (.boundGwM g m) := fun _ _ _ _ => begins_encM rfl
theorem pushIw (w : Word) : Statement (.pushIw w) := fun _ _ _ _ => begins_cons rfl (by simp)
theorem pushIb (b : Byte) : Statement (.pushIb b) := fun _ _ _ _ => begins_cons rfl (by simp)
theorem imulGwEwIw (g : Reg16) (e : Ew) (w : Word) : Statement (.imulGwEwIw g e w) := fun _ _ _ _ => begins_encE_imm rfl (by simp)
theorem imulGwEwIb (g : Reg16) (e : Ew) (b : Byte) : Statement (.imulGwEwIb g e b) := fun _ _ _ _ => begins_encE_imm rfl (by simp)
theorem insb : Statement .insb := fun _ _ _ _ => begins_cons rfl (by simp)
theorem insw : Statement .insw := fun _ _ _ _ => begins_cons rfl (by simp)
theorem outsb : Statement .outsb := fun _ _ _ _ => begins_cons rfl (by simp)
theorem outsw : Statement .outsw := fun _ _ _ _ => begins_cons rfl (by simp)
theorem enterIwIb (size : Word) (level : Byte) : Statement (.enterIwIb size level) := fun _ _ _ _ => begins_cons rfl (by simp)
theorem leave : Statement .leave := fun _ _ _ _ => begins_cons rfl (by simp)

end EncodeShape

end Sys2Proof.Laws
end

