-- ==== Sys2Proof/Laws/Shift.lean ====
section
/-! SUPPORT. The repeated one-bit step of a shift or rotate (spec/41_logic_shift.md R198) is the arithmetic on the whole
count that Safety.lean states (R200 to R206), and what `shift8` and `shift16` do, once for every operation. -/

namespace Sys2Proof.Machine

/-! ### Bits of numbers -/

theorem getLsbD_zero_eq {w : Nat} (hw : 0 < w) (x : BitVec w) : x.getLsbD 0 = decide (x.toInt % 2 = 1) := by
  have h1 : x.getLsbD 0 = decide (x.toNat % 2 = 1) := by
    rw [← BitVec.testBit_toNat, Nat.testBit_eq_decide_div_mod_eq]
    simp
  have h2 : (2 : Int) ∣ 2 ^ w := dvd_pow_self 2 (by omega)
  obtain ⟨k, hk⟩ := h2
  rw [h1, BitVec.toInt_eq_toNat_cond]
  split
  · exact decide_eq_decide.mpr (by omega)
  · push_cast
    rw [hk]
    exact decide_eq_decide.mpr (by omega)

theorem msb_shiftLeft_eq {w : Nat} (hw : 0 < w) (v : BitVec w) (n : Nat) :
    (v <<< n).msb = decide (v.toNat * 2 ^ (n + 1) / 2 ^ w % 2 = 1) := by
  have h : v.toNat * 2 ^ (n + 1) / 2 ^ w = v.toNat * 2 ^ n / 2 ^ (w - 1) := by
    obtain ⟨k, rfl⟩ : ∃ k, w = k + 1 := ⟨w - 1, by omega⟩
    rw [pow_succ, pow_succ, ← Nat.mul_assoc, Nat.mul_div_mul_right _ _ (by decide)]
    rfl
  rw [h, BitVec.msb_eq_getLsbD_last, ← BitVec.testBit_toNat, BitVec.toNat_shiftLeft, Nat.shiftLeft_eq,
    Nat.testBit_mod_two_pow, Nat.testBit_eq_decide_div_mod_eq]
  simp [hw]

/-! ### Shifts -/

theorem run_shl {w : Nat} (n : Nat) (v : BitVec w) (c : Bool) :
    ShiftOp.run .shl (n + 1) v c = (v <<< (n + 1), (v <<< n).msb) := by
  induction n generalizing v c with
  | zero => simp [ShiftOp.run, ShiftOp.step]
  | succ n ih =>
    rw [ShiftOp.run, ih]
    simp only [ShiftOp.step, ← BitVec.shiftLeft_add, Nat.add_comm 1]

theorem run_shr {w : Nat} (n : Nat) (v : BitVec w) (c : Bool) :
    ShiftOp.run .shr (n + 1) v c = (v >>> (n + 1), (v >>> n).getLsbD 0) := by
  induction n generalizing v c with
  | zero => simp [ShiftOp.run, ShiftOp.step]
  | succ n ih =>
    rw [ShiftOp.run, ih]
    simp only [ShiftOp.step, ← BitVec.shiftRight_add, Nat.add_comm 1]

theorem step_sar {w : Nat} (hw : 0 < w) (v : BitVec w) (c : Bool) :
    ShiftOp.step .sar v c = (v.sshiftRight 1, v.getLsbD 0) := by
  refine Prod.ext ?_ rfl
  apply BitVec.eq_of_getLsbD_eq
  intro i hi
  simp only [ShiftOp.step, BitVec.getLsbD_or, BitVec.getLsbD_ushiftRight, BitVec.getLsbD_and, BitVec.getLsbD_twoPow,
    BitVec.getLsbD_sshiftRight, BitVec.msb_eq_getLsbD_last]
  by_cases h : i = w - 1
  · subst h
    have h1 : ¬ 1 + (w - 1) < w := by omega
    have h2 : ¬ w ≤ w - 1 := by omega
    simp [hw, h1, h2, BitVec.getLsbD_of_ge v (1 + (w - 1)) (by omega)]
  · have h1 : 1 + i < w := by omega
    have h2 : ¬ w - 1 = i := fun e => h e.symm
    have h3 : ¬ w ≤ i := by omega
    simp [h1, h2, h3]

theorem run_sar {w : Nat} (hw : 0 < w) (n : Nat) (v : BitVec w) (c : Bool) :
    ShiftOp.run .sar (n + 1) v c = (v.sshiftRight (n + 1), (v.sshiftRight n).getLsbD 0) := by
  induction n generalizing v c with
  | zero => simp [ShiftOp.run, step_sar hw]
  | succ n ih =>
    rw [ShiftOp.run, ih, step_sar hw]
    simp only [← BitVec.sshiftRight_add, Nat.add_comm 1]

theorem run_shl_eq {w : Nat} (hw : 0 < w) {n : Nat} (hn : 0 < n) (v : BitVec w) (c : Bool) :
    ShiftOp.run .shl n v c = ((shlBy v n).value, (shlBy v n).carry) := by
  obtain ⟨k, rfl⟩ : ∃ k, n = k + 1 := ⟨n - 1, by omega⟩
  rw [run_shl, msb_shiftLeft_eq hw]
  refine Prod.ext ?_ rfl
  apply BitVec.eq_of_toNat_eq
  simp [shlBy, Nat.shiftLeft_eq]

theorem run_shr_eq {w : Nat} {n : Nat} (hn : 0 < n) (v : BitVec w) (c : Bool) :
    ShiftOp.run .shr n v c = ((shrBy v n).value, (shrBy v n).carry) := by
  obtain ⟨k, rfl⟩ : ∃ k, n = k + 1 := ⟨n - 1, by omega⟩
  rw [run_shr]
  refine Prod.ext ?_ ?_
  · apply BitVec.eq_of_toNat_eq
    have h : v.toNat / 2 ^ (k + 1) < 2 ^ w := lt_of_le_of_lt (Nat.div_le_self _ _) v.isLt
    simp [shrBy, Nat.shiftRight_eq_div_pow, Nat.mod_eq_of_lt h]
  · simp [shrBy, ← BitVec.testBit_toNat, Nat.testBit_eq_decide_div_mod_eq]

theorem run_sar_eq {w : Nat} (hw : 0 < w) {n : Nat} (hn : 0 < n) (v : BitVec w) (c : Bool) :
    ShiftOp.run .sar n v c = ((sarBy v n).value, (sarBy v n).carry) := by
  obtain ⟨k, rfl⟩ : ∃ k, n = k + 1 := ⟨n - 1, by omega⟩
  have h (j : Nat) : (v.sshiftRight j).toInt = v.toInt / 2 ^ j := by
    rw [BitVec.toInt_sshiftRight, Int.shiftRight_eq_div_pow]
    push_cast
    rfl
  rw [run_sar hw, getLsbD_zero_eq hw, h]
  refine Prod.ext ?_ rfl
  simp only [sarBy]
  rw [← h, BitVec.ofInt_toInt]

/-! ### Rotates: at the widths of an operand, and of an operand with CF on top -/

/-- The widths that are rotated. -/
def RingWidth (w : Nat) : Prop := w = 8 ∨ w = 9 ∨ w = 16 ∨ w = 17

theorem getLsbD_rotl {w : Nat} (hw : RingWidth w) (x : BitVec w) (n i : Nat) (hi : i < w) :
    (x.rotateLeft n).getLsbD i = x.getLsbD ((i + (w - n % w)) % w) := by
  rw [BitVec.getLsbD_rotateLeft]
  by_cases h : i < n % w
  · rcases hw with rfl | rfl | rfl | rfl <;> (simp only [h, decide_true, cond_true]; congr 1; omega)
  · rcases hw with rfl | rfl | rfl | rfl <;>
      (simp only [h, decide_false, cond_false, hi, decide_true, Bool.true_and]; congr 1; omega)

theorem getLsbD_rotr {w : Nat} (hw : RingWidth w) (x : BitVec w) (n i : Nat) (hi : i < w) :
    (x.rotateRight n).getLsbD i = x.getLsbD ((i + n) % w) := by
  rw [BitVec.getLsbD_rotateRight]
  by_cases h : i < w - n % w
  · rcases hw with rfl | rfl | rfl | rfl <;> (simp only [h, decide_true, cond_true]; congr 1; omega)
  · rcases hw with rfl | rfl | rfl | rfl <;>
      (simp only [h, decide_false, cond_false, hi, decide_true, Bool.true_and]; congr 1; omega)

theorem rotl_rotl {w : Nat} (hw : RingWidth w) (x : BitVec w) (n : Nat) :
    (x.rotateLeft 1).rotateLeft n = x.rotateLeft (n + 1) := by
  apply BitVec.eq_of_getLsbD_eq
  intro i hi
  rw [getLsbD_rotl hw _ _ _ hi, getLsbD_rotl hw _ _ _ (Nat.mod_lt _ (by omega)), getLsbD_rotl hw _ _ _ hi]
  congr 1
  rcases hw with rfl | rfl | rfl | rfl <;> omega

theorem rotr_rotr {w : Nat} (hw : RingWidth w) (x : BitVec w) (n : Nat) :
    (x.rotateRight 1).rotateRight n = x.rotateRight (n + 1) := by
  apply BitVec.eq_of_getLsbD_eq
  intro i hi
  rw [getLsbD_rotr hw _ _ _ hi, getLsbD_rotr hw _ _ _ (Nat.mod_lt _ (by omega)), getLsbD_rotr hw _ _ _ hi]
  congr 1
  rcases hw with rfl | rfl | rfl | rfl <;> omega

theorem step_rol {w : Nat} (hw : RingWidth w) (v : BitVec w) (c : Bool) :
    ShiftOp.step .rol v c = (v.rotateLeft 1, (v.rotateLeft 1).getLsbD 0) := by
  have h0 : 0 < w := by rcases hw with rfl | rfl | rfl | rfl <;> decide
  have hc : (v.rotateLeft 1).getLsbD 0 = v.msb := by
    rw [getLsbD_rotl hw _ _ _ h0, BitVec.msb_eq_getLsbD_last]
    congr 1
    rcases hw with rfl | rfl | rfl | rfl <;> rfl
  refine Prod.ext ?_ (by simp [ShiftOp.step, hc])
  apply BitVec.eq_of_getLsbD_eq
  intro i hi
  rw [getLsbD_rotl hw _ _ _ hi]
  rcases hw with rfl | rfl | rfl | rfl <;>
    (interval_cases i <;> simp [ShiftOp.step, BitVec.msb_eq_getLsbD_last])

theorem step_ror {w : Nat} (hw : RingWidth w) (v : BitVec w) (c : Bool) :
    ShiftOp.step .ror v c = (v.rotateRight 1, (v.rotateRight 1).msb) := by
  have h0 : 0 < w := by rcases hw with rfl | rfl | rfl | rfl <;> decide
  have hc : (v.rotateRight 1).msb = v.getLsbD 0 := by
    rw [BitVec.msb_eq_getLsbD_last, getLsbD_rotr hw _ _ _ (by omega)]
    congr 1
    rcases hw with rfl | rfl | rfl | rfl <;> rfl
  refine Prod.ext ?_ (by simp [ShiftOp.step, hc])
  apply BitVec.eq_of_getLsbD_eq
  intro i hi
  rw [getLsbD_rotr hw _ _ _ hi]
  rcases hw with rfl | rfl | rfl | rfl <;> (interval_cases i <;> simp [ShiftOp.step])

theorem run_rol_eq {w : Nat} (hw : RingWidth w) {n : Nat} (hn : 0 < n) (v : BitVec w) (c : Bool) :
    ShiftOp.run .rol n v c = ((rolBy v n).value, (rolBy v n).carry) := by
  obtain ⟨k, rfl⟩ : ∃ k, n = k + 1 := ⟨n - 1, by omega⟩
  clear hn
  induction k generalizing v c with
  | zero => simp only [ShiftOp.run, step_rol hw, rolBy]
  | succ k ih =>
    rw [ShiftOp.run, ih, step_rol hw]
    simp only [rolBy, rotl_rotl hw]

theorem run_ror_eq {w : Nat} (hw : RingWidth w) {n : Nat} (hn : 0 < n) (v : BitVec w) (c : Bool) :
    ShiftOp.run .ror n v c = ((rorBy v n).value, (rorBy v n).carry) := by
  obtain ⟨k, rfl⟩ : ∃ k, n = k + 1 := ⟨n - 1, by omega⟩
  clear hn
  induction k generalizing v c with
  | zero => simp only [ShiftOp.run, step_ror hw, rorBy]
  | succ k ih =>
    rw [ShiftOp.run, ih, step_ror hw]
    simp only [rorBy, rotr_rotr hw]

/-! ### Rotates through CF: the ring of CF and the operand (R205, R206) -/

theorem getLsbD_ring {w : Nat} (c : Bool) (v : BitVec w) (i : Nat) :
    (BitVec.ofBool c ++ v).getLsbD i = if i < w then v.getLsbD i else decide (i = w) && c := by
  rw [BitVec.getLsbD_append]
  split
  · rfl
  · have h : i - w = 0 ↔ i = w := by omega
    simp [BitVec.getLsbD_ofBool, h]

/-- One step of RCL turns the ring by one. -/
theorem ring_rcl {w : Nat} (hw : w = 8 ∨ w = 16) (v : BitVec w) (c : Bool) :
    BitVec.ofBool (ShiftOp.step .rcl v c).2 ++ (ShiftOp.step .rcl v c).1 = (BitVec.ofBool c ++ v).rotateLeft 1 := by
  have hr : RingWidth (1 + w) := by rcases hw with rfl | rfl <;> simp [RingWidth]
  apply BitVec.eq_of_getLsbD_eq
  intro i hi
  rw [getLsbD_rotl hr _ _ _ hi, getLsbD_ring, getLsbD_ring]
  rcases hw with rfl | rfl <;> (interval_cases i <;> simp [ShiftOp.step, BitVec.msb_eq_getLsbD_last])

/-- One step of RCR turns the ring back by one. -/
theorem ring_rcr {w : Nat} (hw : w = 8 ∨ w = 16) (v : BitVec w) (c : Bool) :
    BitVec.ofBool (ShiftOp.step .rcr v c).2 ++ (ShiftOp.step .rcr v c).1 = (BitVec.ofBool c ++ v).rotateRight 1 := by
  have hr : RingWidth (1 + w) := by rcases hw with rfl | rfl <;> simp [RingWidth]
  apply BitVec.eq_of_getLsbD_eq
  intro i hi
  rw [getLsbD_rotr hr _ _ _ hi, getLsbD_ring, getLsbD_ring]
  rcases hw with rfl | rfl <;> (interval_cases i <;> simp [ShiftOp.step])

theorem ring_setWidth {w : Nat} (c : Bool) (v : BitVec w) : (BitVec.ofBool c ++ v).setWidth w = v := by
  apply BitVec.eq_of_getLsbD_eq
  intro i hi
  simp [getLsbD_ring, hi]

theorem ring_msb {w : Nat} (c : Bool) (v : BitVec w) : (BitVec.ofBool c ++ v).msb = c := by
  rw [BitVec.msb_eq_getLsbD_last, getLsbD_ring]
  have h : 1 + w - 1 = w := by omega
  simp [h]

theorem run_rcl_ring {w : Nat} (hw : w = 8 ∨ w = 16) (n : Nat) (v : BitVec w) (c : Bool) :
    BitVec.ofBool (ShiftOp.run .rcl n v c).2 ++ (ShiftOp.run .rcl n v c).1 = (BitVec.ofBool c ++ v).rotateLeft n := by
  have hr : RingWidth (1 + w) := by rcases hw with rfl | rfl <;> simp [RingWidth]
  induction n generalizing v c with
  | zero =>
    apply BitVec.eq_of_getLsbD_eq
    intro i hi
    rw [getLsbD_rotl hr _ _ _ hi]
    simp only [ShiftOp.run]
    congr 1
    rcases hw with rfl | rfl <;> omega
  | succ n ih => rw [ShiftOp.run, ih, ring_rcl hw, rotl_rotl hr]

theorem run_rcr_ring {w : Nat} (hw : w = 8 ∨ w = 16) (n : Nat) (v : BitVec w) (c : Bool) :
    BitVec.ofBool (ShiftOp.run .rcr n v c).2 ++ (ShiftOp.run .rcr n v c).1 = (BitVec.ofBool c ++ v).rotateRight n := by
  have hr : RingWidth (1 + w) := by rcases hw with rfl | rfl <;> simp [RingWidth]
  induction n generalizing v c with
  | zero =>
    apply BitVec.eq_of_getLsbD_eq
    intro i hi
    rw [getLsbD_rotr hr _ _ _ hi]
    simp only [ShiftOp.run]
    congr 1
    rcases hw with rfl | rfl <;> omega
  | succ n ih => rw [ShiftOp.run, ih, ring_rcr hw, rotr_rotr hr]

theorem run_rcl_eq {w : Nat} (hw : w = 8 ∨ w = 16) (n : Nat) (v : BitVec w) (c : Bool) :
    ShiftOp.run .rcl n v c = ((rclBy v c n).value, (rclBy v c n).carry) := by
  simp only [rclBy, ← run_rcl_ring hw, ring_setWidth, ring_msb]

theorem run_rcr_eq {w : Nat} (hw : w = 8 ∨ w = 16) (n : Nat) (v : BitVec w) (c : Bool) :
    ShiftOp.run .rcr n v c = ((rcrBy v c n).value, (rcrBy v c n).carry) := by
  simp only [rcrBy, ← run_rcr_ring hw, ring_setWidth, ring_msb]

/-! ### The operations on a state -/

/-- What every operation gives: the arithmetic of Safety.lean. -/
def ShiftOp.arith {w : Nat} (op : ShiftOp) (v : BitVec w) (c : Bool) (n : Nat) : Shifted w :=
  match op with
  | .rol => rolBy v n
  | .ror => rorBy v n
  | .rcl => rclBy v c n
  | .rcr => rcrBy v c n
  | .shl => shlBy v n
  | .shr => shrBy v n
  | .sar => sarBy v n

theorem ShiftOp.run_eq {w : Nat} (hw : w = 8 ∨ w = 16) (op : ShiftOp) {n : Nat} (hn : 0 < n) (v : BitVec w) (c : Bool) :
    op.run n v c = ((op.arith v c n).value, (op.arith v c n).carry) := by
  have h0 : 0 < w := by omega
  have hr : RingWidth w := by rcases hw with rfl | rfl <;> simp [RingWidth]
  cases op
  · exact run_rol_eq hr hn v c
  · exact run_ror_eq hr hn v c
  · exact run_rcl_eq hw n v c
  · exact run_rcr_eq hw n v c
  · exact run_shl_eq h0 hn v c
  · exact run_shr_eq hn v c
  · exact run_sar_eq h0 hn v c

/-- OF for count 1 (R200 to R206): the model's expression is the one of Safety.lean. -/
theorem ShiftOp.overflow_eq {w : Nat} (hw : 0 < w) (op : ShiftOp) (v : BitVec w) (c : Bool) :
    op.overflow v (op.arith v c 1).value (op.arith v c 1).carry = (op.arith v c 1).overflow := by
  cases op <;> simp only [ShiftOp.overflow, ShiftOp.arith]
  case shl =>
    have h := congrArg Prod.snd (run_shl_eq hw (n := 1) (by decide) v c)
    rw [run_shl] at h
    have h2 : (shlBy v 1).carry = v.msb := by simpa using h.symm
    rw [h2]
    exact Bool.xor_comm _ _
  all_goals rfl

theorem shiftFlags_shift {w : Nat} (hw : 0 < w) (s : State) {op : ShiftOp} (ho : op.isShift = true) (n : Nat) (v : BitVec w)
    (c : Bool) :
    ShiftSets (op.arith v c n) n s.flags (s.shiftFlags op n v (op.arith v c n).value (op.arith v c n).carry) := by
  simp only [State.shiftFlags, ho, if_true]
  refine ⟨rfl, fun h => ?_, ⟨(szpOf_setSZP hw _ s.flags).zf, (szpOf_setSZP hw _ s.flags).sf, (szpOf_setSZP hw _ s.flags).pf⟩,
    ⟨rfl, rfl, rfl⟩⟩
  subst h
  simp only [if_true, op.overflow_eq hw]

theorem shiftFlags_rotate {w : Nat} (hw : 0 < w) (s : State) {op : ShiftOp} (ho : op.isShift = false) (n : Nat) (v : BitVec w)
    (c : Bool) :
    RotateSets (op.arith v c n) n s.flags (s.shiftFlags op n v (op.arith v c n).value (op.arith v c n).carry) := by
  simp only [State.shiftFlags, ho, Bool.false_eq_true, if_false]
  refine ⟨rfl, fun h => ?_, rfl, rfl, rfl, rfl, ⟨rfl, rfl, rfl⟩⟩
  subst h
  simp only [if_true, op.overflow_eq hw]

/-- Count 0 changes nothing (R199). -/
theorem shift8_zero (s : State) (op : ShiftOp) (e : Eb) (n : Byte) (h : s.countOf n = 0) :
    Changes s (s.shift8 op (s.loc e) n) [] [] [] := by
  have h2 : s.shiftCount n = 0 := h
  simp only [State.shift8, h2, if_true]
  exact changes_put8_get8 s e

theorem shift16_zero (s : State) (op : ShiftOp) (e : Ew) (n : Byte) (h : s.countOf n = 0) :
    Changes s (s.shift16 op (s.loc e) n) [] [] [] := by
  have h2 : s.shiftCount n = 0 := h
  simp only [State.shift16, h2, if_true]
  exact changes_put16_get16 s e

/-- A count of 1 or more: the operand and the flags. -/
theorem shift8_spec (s : State) (op : ShiftOp) (e : Eb) (n : Byte) (h : s.countOf n ≠ 0) :
    let r := op.arith (s.readEb e) s.flags.CF (s.countOf n)
    Wrote8 s (s.shift8 op (s.loc e) n) e r.value [.flags] ∧
      (s.shift8 op (s.loc e) n).flags = s.shiftFlags op (s.countOf n) (s.readEb e) r.value r.carry := by
  have h2 : s.shiftCount n = s.countOf n := rfl
  have hr := op.run_eq (.inl rfl) (Nat.pos_of_ne_zero h) (s.readEb e) s.flags.CF
  simp only [State.readEb] at hr ⊢
  simp only [State.shift8, h2, if_neg h, hr]
  exact ⟨((wrote8_put8 (Changes.refl s) e _).trans (changes_setFlags _ _) (List.Subset.refl _)).trans (changes_drew _ _)
    (by simp), rfl⟩

theorem shift16_spec (s : State) (op : ShiftOp) (e : Ew) (n : Byte) (h : s.countOf n ≠ 0) :
    let r := op.arith (s.readEw e) s.flags.CF (s.countOf n)
    Wrote16 s (s.shift16 op (s.loc e) n) e r.value [.flags] ∧
      (s.shift16 op (s.loc e) n).flags = s.shiftFlags op (s.countOf n) (s.readEw e) r.value r.carry := by
  have h2 : s.shiftCount n = s.countOf n := rfl
  have hr := op.run_eq (.inr rfl) (Nat.pos_of_ne_zero h) (s.readEw e) s.flags.CF
  simp only [State.readEw] at hr ⊢
  simp only [State.shift16, h2, if_neg h, hr]
  exact ⟨((wrote16_put16 (Changes.refl s) e _).trans (changes_setFlags _ _) (List.Subset.refl _)).trans (changes_drew _ _)
    (by simp), rfl⟩

/-- The count by 1 is 1 under either value of ISA_186. -/
theorem countOf_one (s : State) : s.countOf 1#8 = 1 := by simp [State.countOf]

end Sys2Proof.Machine
end

