-- ==== Sys2Proof/Laws/Strings.lean ====
section
/-! SUPPORT. What one string element does and what the repeat loop does (spec/44_string.md R320, R330). -/

namespace Sys2Proof.Machine

variable (s : State)

/-! ### The index registers (R320) -/

theorem moved_zero (r : Reg16) : s.moved r 0 = s.reg16 r := by
  unfold State.moved
  split <;> simp

theorem sub_ofNat_eq (x : Word) (n : Nat) : x - BitVec.ofNat 16 n = BitVec.ofInt 16 (x.toNat - n) := by
  apply BitVec.eq_of_toInt_eq
  rw [← BitVec.ofInt_natCast, BitVec.toInt_sub, BitVec.toInt_ofInt, BitVec.toInt_ofInt, BitVec.toInt_eq_toNat_bmod x,
    Int.bmod_sub_bmod, Int.sub_bmod_bmod]

theorem moved_eq (r : Reg16) (n : Nat) :
    s.moved r n = if s.flags.DF then s.reg16 r - BitVec.ofNat 16 n else s.reg16 r + BitVec.ofNat 16 n := by
  unfold State.moved
  split
  · rw [sub_ofNat_eq]
  · apply BitVec.eq_of_toNat_eq
    simp

/-- An index register moves by one element. -/
theorem reg16_stepIndex (r q : Reg16) (n : Nat) :
    (s.stepIndex r (BitVec.ofNat 16 n)).reg16 q = if q = r then s.moved r n else s.reg16 q := by
  rw [State.stepIndex, State.reg16_setReg16, moved_eq]

theorem changes_stepIndex (r : Reg16) (n : Word) : Changes s (s.stepIndex r n) [r] [] [] := changes_setReg16 s r _

/-- The element after `k` elements is the element after one of them and `k - 1` more. -/
theorem moved_add {s t : State} {r : Reg16} {j : Nat} (hf : t.flags.DF = s.flags.DF) (hr : t.reg16 r = s.moved r j) (k : Nat) :
    t.moved r k = s.moved r (j + k) := by
  rw [moved_eq, hf, hr, moved_eq, moved_eq]
  split
  · rw [BitVec.ofNat_add, BitVec.sub_sub]
  · rw [BitVec.ofNat_add, BitVec.add_assoc]

theorem moved_congr {s t : State} {r : Reg16} (hf : t.flags.DF = s.flags.DF) (hr : t.reg16 r = s.reg16 r) (k : Nat) :
    t.moved r k = s.moved r k := by
  rw [moved_eq, hf, hr, moved_eq]

/-- Fewer than 2^16 elements have different offsets. -/
theorem moved_inj {r : Reg16} {j k : Nat} (hj : j < 0x10000) (hk : k < 0x10000) (h : s.moved r j = s.moved r k) : j = k := by
  rw [moved_eq, moved_eq] at h
  have e (n : Nat) (hn : n < 0x10000) : (BitVec.ofNat 16 n).toNat = n := by simpa using Nat.mod_eq_of_lt hn
  split at h
  · have h2 : BitVec.ofNat 16 j = BitVec.ofNat 16 k := by simpa [BitVec.sub_eq_add_neg] using h
    have h3 := congrArg BitVec.toNat h2
    rwa [e j hj, e k hk] at h3
  · have h2 : BitVec.ofNat 16 j = BitVec.ofNat 16 k := by simpa using h
    have h3 := congrArg BitVec.toNat h2
    rwa [e j hj, e k hk] at h3

/-! ### The loop (R330) -/

/-- CX after an element is CX before it. -/
def KeepsCx (elem : State → State) : Prop := ∀ s, (elem s).reg16 .cx = s.reg16 .cx

theorem repLoop_done (elem : State → State) (exit : State → Bool) (n : Nat) (h : s.reg16 .cx = 0#16) :
    repLoop elem exit n s = s := by
  cases n with
  | zero => rfl
  | succ n => simp [repLoop, h]

/-- The state after one element and the decrement of CX. -/
def elemStep (elem : State → State) (s : State) : State := (elem s).setReg16 .cx (s.reg16 .cx - 1#16)

/-- An element and the decrement lower CX by one, where it is not 0. -/
theorem toNat_cx_elemStep (elem : State → State) (h : s.reg16 .cx ≠ 0#16) :
    ((elemStep elem s).reg16 .cx).toNat + 1 = (s.reg16 .cx).toNat := by
  have h0 : (s.reg16 .cx).toNat ≠ 0 := fun e => h (BitVec.eq_of_toNat_eq e)
  have hl := (s.reg16 .cx).isLt
  rw [elemStep, State.reg16_setReg16_same, BitVec.toNat_sub]
  simp
  omega

/-- One turn of the loop, with CX as the number of elements left. -/
theorem repLoop_step {elem : State → State} (hk : KeepsCx elem) (exit : State → Bool) (h : s.reg16 .cx ≠ 0#16) :
    repLoop elem exit (s.reg16 .cx).toNat s =
      if exit (elemStep elem s) then elemStep elem s
      else repLoop elem exit ((elemStep elem s).reg16 .cx).toNat (elemStep elem s) := by
  have h0 : (s.reg16 .cx).toNat ≠ 0 := fun e => h (BitVec.eq_of_toNat_eq e)
  obtain ⟨k, hk2⟩ : ∃ k, (s.reg16 .cx).toNat = k + 1 := ⟨(s.reg16 .cx).toNat - 1, by omega⟩
  have h1 : ((elemStep elem s).reg16 .cx).toNat = k := by
    have := toNat_cx_elemStep s elem h
    omega
  rw [h1, hk2, repLoop, if_neg h]
  simp only [hk s]
  rfl

/-- WHAT THE LOOP DOES. It runs some number of elements, at least one where CX is not 0; CX goes down by that number,
and ends at 0 or where the exit test held after the last element; and what each element carries on from `n` to `n + 1`
elements holds at the end of all of them. -/
theorem repLoop_runs {elem : State → State} (hk : KeepsCx elem) (exit : State → Bool) (P : Nat → State → Prop)
    (hstep : ∀ n t, P n t → P (n + 1) (elemStep elem t)) (hs : P 0 s) :
    let t := repLoop elem exit (s.reg16 .cx).toNat s
    ∃ n, P n t ∧ (t.reg16 .cx).toNat + n = (s.reg16 .cx).toNat ∧ (n = 0 → s.reg16 .cx = 0#16) ∧
      (t.reg16 .cx = 0#16 ∨ exit t = true) := by
  obtain ⟨c, hc⟩ : ∃ c, (s.reg16 .cx).toNat = c := ⟨_, rfl⟩
  induction c generalizing s P with
  | zero =>
    have h0 : s.reg16 .cx = 0#16 := BitVec.eq_of_toNat_eq hc
    rw [repLoop_done s elem exit _ h0]
    exact ⟨0, hs, rfl, fun _ => h0, .inl h0⟩
  | succ c ih =>
    have h0 : s.reg16 .cx ≠ 0#16 := fun e => by rw [e] at hc; simp at hc
    have h1 := toNat_cx_elemStep s elem h0
    rw [repLoop_step s hk exit h0]
    split
    · rename_i h
      exact ⟨1, hstep 0 s hs, h1, by omega, .inr h⟩
    · obtain ⟨n, hp, hn, -, he⟩ := ih (elemStep elem s) (fun n => P (n + 1)) (fun n => hstep (n + 1)) (hstep 0 s hs) (by omega)
      exact ⟨n + 1, hp, by omega, by omega, he⟩

/-- A property that each element keeps is kept by the whole loop. -/
theorem repLoop_induct {elem : State → State} (hk : KeepsCx elem) (exit : State → Bool) (P : State → Prop)
    (hstep : ∀ s, P s → P (elemStep elem s)) (hs : P s) : P (repLoop elem exit (s.reg16 .cx).toNat s) := by
  obtain ⟨_, hp, _⟩ := repLoop_runs s hk exit (fun _ => P) (fun _ => hstep) hs
  exact hp

/-- How the loop ends: CX is 0, or the exit test held after the last element; CX never rises. -/
theorem repLoop_ends {elem : State → State} (hk : KeepsCx elem) (exit : State → Bool) :
    ((repLoop elem exit (s.reg16 .cx).toNat s).reg16 .cx = 0#16 ∨ exit (repLoop elem exit (s.reg16 .cx).toNat s) = true) ∧
      ((repLoop elem exit (s.reg16 .cx).toNat s).reg16 .cx).toNat ≤ (s.reg16 .cx).toNat := by
  obtain ⟨_, _, hn, _, he⟩ := repLoop_runs s hk exit (fun _ _ => True) (fun _ _ _ => trivial) trivial
  exact ⟨he, by omega⟩

end Sys2Proof.Machine
end

