-- ==== Sys2Proof/Tests/Slice0.lean ====
section
/-! SUPPORT. The package's own tests: well-formedness refuses what it must, every constructor decodes from a word written
out from the opcode map of spec/30_encoding.md, single steps give what spec/95_test_vectors.md says, and every
statement with hypotheses has concrete data that meet them. -/

namespace Sys2Proof.Tests

open Sys2Proof.Machine

/-- The standing start state of spec/95_test_vectors.md: SP = FFFE, every segment 1000, IP = 0100, the rest 0. -/
def base : State :=
  { State.reset with
    regs := { State.reset.regs with sp := 0xFFFE#16 }
    segs := { es := 0x1000#16, cs := 0x1000#16, ss := 0x1000#16, ds := 0x1000#16 }
    ip := 0x0100#16 }

/-- The same on a machine with ISA_186. -/
def base186 : State := { base with isa186 := true }

/-- A general register set. -/
def ax (v : Word) : State := base.setReg16 .ax v

/-- AX and BX set. -/
def axbx (a b : Word) : State := (base.setReg16 .ax a).setReg16 .bx b

/-- The flags from an image (10_state.md R31). -/
def image (v : Word) (s : State) : State := s.setFlags (Flags.ofImage v)

/-- What one step of the code at CS:IP gives, through `f`. -/
def after {A : Type} (code : List Byte) (s : State) (f : State → A) : Option A :=
  match step (s.storeCode s.ip code) with
  | .next t => some (f t)
  | .fault _ => none
  | .refused _ => none

/-- The bytes decode to this instruction and nothing is left over. -/
def reads (isa186 : Bool) (bytes : List Byte) (ps : List Prefix) (i : Instr) : Bool :=
  decide (decode isa186 bytes = .ok (⟨ps, i⟩, []))

/-! ## Well-formedness refuses -/

-- mod = 0 with rm = 6 is a direct offset, so there is no form [BP] without displacement (R102).
theorem test_wf_no_bare_bp : Instr.wf true (.addEbGb (.mem (.base .bp)) .al) = false := by decide
theorem test_wf_no_bare_bp_word : Instr.wf true (.pushEw (.mem (.base .bp))) = false := by decide
theorem test_wf_no_bare_bp_pointer : Instr.wf true (.leaGwM .ax (.base .bp)) = false := by decide
theorem test_wf_bp_with_displacement : Instr.wf false (.addEbGb (.mem (.disp8 .bp 0#8)) .al) = true := by decide
-- The 80186 rows exist only under ISA_186 (R380).
theorem test_wf_pusha_needs_186 : Instr.wf false .pusha = false ∧ Instr.wf true .pusha = true := by decide
theorem test_wf_shift_ib_needs_186 : Instr.wf false (.shlEwIb (.reg .ax) 4#8) = false := by decide
-- Only the encodings of R127 are Invalid.
theorem test_wf_invalid_not_nop : Instr.wf false (.invalid [0x90#8]) = false := by decide
theorem test_wf_invalid_empty : Instr.wf false (.invalid []) = false := by decide
theorem test_wf_invalid_lea_memory : Instr.wf false (.invalid [0x8D#8, 0x00#8]) = false := by decide
theorem test_wf_invalid_60_by_parameter :
    Instr.wf false (.invalid [0x60#8]) = true ∧ Instr.wf true (.invalid [0x60#8]) = false := by decide
theorem test_wf_invalid_fourteen : Instr.wf false (.invalid (List.replicate 14 0x26#8)) = false := by decide
theorem test_wf_invalid_fifteen : Instr.wf false (.invalid (List.replicate 15 0x26#8)) = true := by decide
-- A whole instruction: at most 14 bytes of R94, none as the instruction, none before the run that is itself Invalid.
theorem test_wf_too_many_bytes_of_r94 : Decoded.wf false ⟨List.replicate 15 .es, .nop⟩ = false := by decide
theorem test_wf_most_bytes_of_r94 : Decoded.wf false ⟨List.replicate 14 .es, .nop⟩ = true := by decide
theorem test_wf_override_is_no_instruction : Decoded.wf false ⟨[], .segEs⟩ = false := by decide
theorem test_wf_run_has_nothing_before : Decoded.wf false ⟨[.es], .invalid (List.replicate 15 0x26#8)⟩ = false := by decide

/-! ## Decoding: a word for every constructor, from the opcode map (R110 to R127) -/

theorem test_decode_add :
    reads false [0x00#8, 0x20#8] [] (.addEbGb (.mem (.base .bxsi)) .ah) = true ∧
    reads false [0x01#8, 0xEF#8] [] (.addEwGw (.reg .di) .bp) = true ∧
    reads false [0x02#8, 0x73#8, 0x80#8] [] (.addGbEb .dh (.mem (.disp8 .bpdi 0x80#8))) = true ∧
    reads false [0x03#8, 0x36#8, 0x34#8, 0x12#8] [] (.addGwEw .si (.mem (.direct 0x1234#16))) = true ∧
    reads false [0x04#8, 0xFF#8] [] (.addAlIb 0xFF#8) = true ∧
    reads false [0x05#8, 0xCD#8, 0xAB#8] [] (.addAxIw 0xABCD#16) = true ∧
    reads false [0x80#8, 0xC5#8, 0x0F#8] [] (.addEbIb (.reg .ch) 0x0F#8) = true ∧
    reads false [0x81#8, 0x86#8, 0x00#8, 0x02#8, 0x78#8, 0x56#8] [] (.addEwIw (.mem (.disp16 .bp 0x0200#16)) 0x5678#16) = true ∧
    reads false [0x83#8, 0xC4#8, 0x80#8] [] (.addEwIb (.reg .sp) 0x80#8) = true := by decide
theorem test_decode_or :
    reads false [0x08#8, 0x20#8] [] (.orEbGb (.mem (.base .bxsi)) .ah) = true ∧
    reads false [0x09#8, 0xEF#8] [] (.orEwGw (.reg .di) .bp) = true ∧
    reads false [0x0A#8, 0x73#8, 0x80#8] [] (.orGbEb .dh (.mem (.disp8 .bpdi 0x80#8))) = true ∧
    reads false [0x0B#8, 0x36#8, 0x34#8, 0x12#8] [] (.orGwEw .si (.mem (.direct 0x1234#16))) = true ∧
    reads false [0x0C#8, 0xFF#8] [] (.orAlIb 0xFF#8) = true ∧
    reads false [0x0D#8, 0xCD#8, 0xAB#8] [] (.orAxIw 0xABCD#16) = true ∧
    reads false [0x80#8, 0xCD#8, 0x0F#8] [] (.orEbIb (.reg .ch) 0x0F#8) = true ∧
    reads false [0x81#8, 0x8E#8, 0x00#8, 0x02#8, 0x78#8, 0x56#8] [] (.orEwIw (.mem (.disp16 .bp 0x0200#16)) 0x5678#16) = true ∧
    reads false [0x83#8, 0xCC#8, 0x80#8] [] (.orEwIb (.reg .sp) 0x80#8) = true := by decide
theorem test_decode_adc :
    reads false [0x10#8, 0x20#8] [] (.adcEbGb (.mem (.base .bxsi)) .ah) = true ∧
    reads false [0x11#8, 0xEF#8] [] (.adcEwGw (.reg .di) .bp) = true ∧
    reads false [0x12#8, 0x73#8, 0x80#8] [] (.adcGbEb .dh (.mem (.disp8 .bpdi 0x80#8))) = true ∧
    reads false [0x13#8, 0x36#8, 0x34#8, 0x12#8] [] (.adcGwEw .si (.mem (.direct 0x1234#16))) = true ∧
    reads false [0x14#8, 0xFF#8] [] (.adcAlIb 0xFF#8) = true ∧
    reads false [0x15#8, 0xCD#8, 0xAB#8] [] (.adcAxIw 0xABCD#16) = true ∧
    reads false [0x80#8, 0xD5#8, 0x0F#8] [] (.adcEbIb (.reg .ch) 0x0F#8) = true ∧
    reads false [0x81#8, 0x96#8, 0x00#8, 0x02#8, 0x78#8, 0x56#8] [] (.adcEwIw (.mem (.disp16 .bp 0x0200#16)) 0x5678#16) = true ∧
    reads false [0x83#8, 0xD4#8, 0x80#8] [] (.adcEwIb (.reg .sp) 0x80#8) = true := by decide
theorem test_decode_sbb :
    reads false [0x18#8, 0x20#8] [] (.sbbEbGb (.mem (.base .bxsi)) .ah) = true ∧
    reads false [0x19#8, 0xEF#8] [] (.sbbEwGw (.reg .di) .bp) = true ∧
    reads false [0x1A#8, 0x73#8, 0x80#8] [] (.sbbGbEb .dh (.mem (.disp8 .bpdi 0x80#8))) = true ∧
    reads false [0x1B#8, 0x36#8, 0x34#8, 0x12#8] [] (.sbbGwEw .si (.mem (.direct 0x1234#16))) = true ∧
    reads false [0x1C#8, 0xFF#8] [] (.sbbAlIb 0xFF#8) = true ∧
    reads false [0x1D#8, 0xCD#8, 0xAB#8] [] (.sbbAxIw 0xABCD#16) = true ∧
    reads false [0x80#8, 0xDD#8, 0x0F#8] [] (.sbbEbIb (.reg .ch) 0x0F#8) = true ∧
    reads false [0x81#8, 0x9E#8, 0x00#8, 0x02#8, 0x78#8, 0x56#8] [] (.sbbEwIw (.mem (.disp16 .bp 0x0200#16)) 0x5678#16) = true ∧
    reads false [0x83#8, 0xDC#8, 0x80#8] [] (.sbbEwIb (.reg .sp) 0x80#8) = true := by decide
theorem test_decode_and :
    reads false [0x20#8, 0x20#8] [] (.andEbGb (.mem (.base .bxsi)) .ah) = true ∧
    reads false [0x21#8, 0xEF#8] [] (.andEwGw (.reg .di) .bp) = true ∧
    reads false [0x22#8, 0x73#8, 0x80#8] [] (.andGbEb .dh (.mem (.disp8 .bpdi 0x80#8))) = true ∧
    reads false [0x23#8, 0x36#8, 0x34#8, 0x12#8] [] (.andGwEw .si (.mem (.direct 0x1234#16))) = true ∧
    reads false [0x24#8, 0xFF#8] [] (.andAlIb 0xFF#8) = true ∧
    reads false [0x25#8, 0xCD#8, 0xAB#8] [] (.andAxIw 0xABCD#16) = true ∧
    reads false [0x80#8, 0xE5#8, 0x0F#8] [] (.andEbIb (.reg .ch) 0x0F#8) = true ∧
    reads false [0x81#8, 0xA6#8, 0x00#8, 0x02#8, 0x78#8, 0x56#8] [] (.andEwIw (.mem (.disp16 .bp 0x0200#16)) 0x5678#16) = true ∧
    reads false [0x83#8, 0xE4#8, 0x80#8] [] (.andEwIb (.reg .sp) 0x80#8) = true := by decide
theorem test_decode_sub :
    reads false [0x28#8, 0x20#8] [] (.subEbGb (.mem (.base .bxsi)) .ah) = true ∧
    reads false [0x29#8, 0xEF#8] [] (.subEwGw (.reg .di) .bp) = true ∧
    reads false [0x2A#8, 0x73#8, 0x80#8] [] (.subGbEb .dh (.mem (.disp8 .bpdi 0x80#8))) = true ∧
    reads false [0x2B#8, 0x36#8, 0x34#8, 0x12#8] [] (.subGwEw .si (.mem (.direct 0x1234#16))) = true ∧
    reads false [0x2C#8, 0xFF#8] [] (.subAlIb 0xFF#8) = true ∧
    reads false [0x2D#8, 0xCD#8, 0xAB#8] [] (.subAxIw 0xABCD#16) = true ∧
    reads false [0x80#8, 0xED#8, 0x0F#8] [] (.subEbIb (.reg .ch) 0x0F#8) = true ∧
    reads false [0x81#8, 0xAE#8, 0x00#8, 0x02#8, 0x78#8, 0x56#8] [] (.subEwIw (.mem (.disp16 .bp 0x0200#16)) 0x5678#16) = true ∧
    reads false [0x83#8, 0xEC#8, 0x80#8] [] (.subEwIb (.reg .sp) 0x80#8) = true := by decide
theorem test_decode_xor :
    reads false [0x30#8, 0x20#8] [] (.xorEbGb (.mem (.base .bxsi)) .ah) = true ∧
    reads false [0x31#8, 0xEF#8] [] (.xorEwGw (.reg .di) .bp) = true ∧
    reads false [0x32#8, 0x73#8, 0x80#8] [] (.xorGbEb .dh (.mem (.disp8 .bpdi 0x80#8))) = true ∧
    reads false [0x33#8, 0x36#8, 0x34#8, 0x12#8] [] (.xorGwEw .si (.mem (.direct 0x1234#16))) = true ∧
    reads false [0x34#8, 0xFF#8] [] (.xorAlIb 0xFF#8) = true ∧
    reads false [0x35#8, 0xCD#8, 0xAB#8] [] (.xorAxIw 0xABCD#16) = true ∧
    reads false [0x80#8, 0xF5#8, 0x0F#8] [] (.xorEbIb (.reg .ch) 0x0F#8) = true ∧
    reads false [0x81#8, 0xB6#8, 0x00#8, 0x02#8, 0x78#8, 0x56#8] [] (.xorEwIw (.mem (.disp16 .bp 0x0200#16)) 0x5678#16) = true ∧
    reads false [0x83#8, 0xF4#8, 0x80#8] [] (.xorEwIb (.reg .sp) 0x80#8) = true := by decide
theorem test_decode_cmp :
    reads false [0x38#8, 0x20#8] [] (.cmpEbGb (.mem (.base .bxsi)) .ah) = true ∧
    reads false [0x39#8, 0xEF#8] [] (.cmpEwGw (.reg .di) .bp) = true ∧
    reads false [0x3A#8, 0x73#8, 0x80#8] [] (.cmpGbEb .dh (.mem (.disp8 .bpdi 0x80#8))) = true ∧
    reads false [0x3B#8, 0x36#8, 0x34#8, 0x12#8] [] (.cmpGwEw .si (.mem (.direct 0x1234#16))) = true ∧
    reads false [0x3C#8, 0xFF#8] [] (.cmpAlIb 0xFF#8) = true ∧
    reads false [0x3D#8, 0xCD#8, 0xAB#8] [] (.cmpAxIw 0xABCD#16) = true ∧
    reads false [0x80#8, 0xFD#8, 0x0F#8] [] (.cmpEbIb (.reg .ch) 0x0F#8) = true ∧
    reads false [0x81#8, 0xBE#8, 0x00#8, 0x02#8, 0x78#8, 0x56#8] [] (.cmpEwIw (.mem (.disp16 .bp 0x0200#16)) 0x5678#16) = true ∧
    reads false [0x83#8, 0xFC#8, 0x80#8] [] (.cmpEwIb (.reg .sp) 0x80#8) = true := by decide
theorem test_decode_inc_r16 :
    reads false [0x40#8] [] (.incR16 .ax) = true ∧
    reads false [0x41#8] [] (.incR16 .cx) = true ∧
    reads false [0x42#8] [] (.incR16 .dx) = true ∧
    reads false [0x43#8] [] (.incR16 .bx) = true ∧
    reads false [0x44#8] [] (.incR16 .sp) = true ∧
    reads false [0x45#8] [] (.incR16 .bp) = true ∧
    reads false [0x46#8] [] (.incR16 .si) = true ∧
    reads false [0x47#8] [] (.incR16 .di) = true := by decide
theorem test_decode_dec_r16 :
    reads false [0x48#8] [] (.decR16 .ax) = true ∧
    reads false [0x49#8] [] (.decR16 .cx) = true ∧
    reads false [0x4A#8] [] (.decR16 .dx) = true ∧
    reads false [0x4B#8] [] (.decR16 .bx) = true ∧
    reads false [0x4C#8] [] (.decR16 .sp) = true ∧
    reads false [0x4D#8] [] (.decR16 .bp) = true ∧
    reads false [0x4E#8] [] (.decR16 .si) = true ∧
    reads false [0x4F#8] [] (.decR16 .di) = true := by decide
theorem test_decode_push_r16 :
    reads false [0x50#8] [] (.pushR16 .ax) = true ∧
    reads false [0x51#8] [] (.pushR16 .cx) = true ∧
    reads false [0x52#8] [] (.pushR16 .dx) = true ∧
    reads false [0x53#8] [] (.pushR16 .bx) = true ∧
    reads false [0x54#8] [] (.pushR16 .sp) = true ∧
    reads false [0x55#8] [] (.pushR16 .bp) = true ∧
    reads false [0x56#8] [] (.pushR16 .si) = true ∧
    reads false [0x57#8] [] (.pushR16 .di) = true := by decide
theorem test_decode_pop_r16 :
    reads false [0x58#8] [] (.popR16 .ax) = true ∧
    reads false [0x59#8] [] (.popR16 .cx) = true ∧
    reads false [0x5A#8] [] (.popR16 .dx) = true ∧
    reads false [0x5B#8] [] (.popR16 .bx) = true ∧
    reads false [0x5C#8] [] (.popR16 .sp) = true ∧
    reads false [0x5D#8] [] (.popR16 .bp) = true ∧
    reads false [0x5E#8] [] (.popR16 .si) = true ∧
    reads false [0x5F#8] [] (.popR16 .di) = true := by decide
theorem test_decode_mov_r16 :
    reads false [0xB8#8, 0x34#8, 0x12#8] [] (.movR16Iw .ax 0x1234#16) = true ∧
    reads false [0xB9#8, 0x34#8, 0x12#8] [] (.movR16Iw .cx 0x1234#16) = true ∧
    reads false [0xBA#8, 0x34#8, 0x12#8] [] (.movR16Iw .dx 0x1234#16) = true ∧
    reads false [0xBB#8, 0x34#8, 0x12#8] [] (.movR16Iw .bx 0x1234#16) = true ∧
    reads false [0xBC#8, 0x34#8, 0x12#8] [] (.movR16Iw .sp 0x1234#16) = true ∧
    reads false [0xBD#8, 0x34#8, 0x12#8] [] (.movR16Iw .bp 0x1234#16) = true ∧
    reads false [0xBE#8, 0x34#8, 0x12#8] [] (.movR16Iw .si 0x1234#16) = true ∧
    reads false [0xBF#8, 0x34#8, 0x12#8] [] (.movR16Iw .di 0x1234#16) = true := by decide
theorem test_decode_mov_r8 :
    reads false [0xB0#8, 0x5A#8] [] (.movR8Ib .al 0x5A#8) = true ∧
    reads false [0xB1#8, 0x5A#8] [] (.movR8Ib .cl 0x5A#8) = true ∧
    reads false [0xB2#8, 0x5A#8] [] (.movR8Ib .dl 0x5A#8) = true ∧
    reads false [0xB3#8, 0x5A#8] [] (.movR8Ib .bl 0x5A#8) = true ∧
    reads false [0xB4#8, 0x5A#8] [] (.movR8Ib .ah 0x5A#8) = true ∧
    reads false [0xB5#8, 0x5A#8] [] (.movR8Ib .ch 0x5A#8) = true ∧
    reads false [0xB6#8, 0x5A#8] [] (.movR8Ib .dh 0x5A#8) = true ∧
    reads false [0xB7#8, 0x5A#8] [] (.movR8Ib .bh 0x5A#8) = true := by decide
theorem test_decode_inc_dec_neg :
    reads false [0xFE#8, 0xC7#8] [] (.incEb (.reg .bh)) = true ∧
    reads false [0xFE#8, 0x0D#8] [] (.decEb (.mem (.base .di))) = true ∧
    reads false [0xFF#8, 0x07#8] [] (.incEw (.mem (.base .bx))) = true ∧
    reads false [0xFF#8, 0xCE#8] [] (.decEw (.reg .si)) = true := by decide
theorem test_decode_group3 :
    reads false [0xF6#8, 0xD3#8] [] (.notEb (.reg .bl)) = true ∧
    reads false [0xF7#8, 0x54#8, 0x7F#8] [] (.notEw (.mem (.disp8 .si 0x7F#8))) = true ∧
    reads false [0xF6#8, 0xDB#8] [] (.negEb (.reg .bl)) = true ∧
    reads false [0xF7#8, 0x5C#8, 0x7F#8] [] (.negEw (.mem (.disp8 .si 0x7F#8))) = true ∧
    reads false [0xF6#8, 0xE3#8] [] (.mulEb (.reg .bl)) = true ∧
    reads false [0xF7#8, 0x64#8, 0x7F#8] [] (.mulEw (.mem (.disp8 .si 0x7F#8))) = true ∧
    reads false [0xF6#8, 0xEB#8] [] (.imulEb (.reg .bl)) = true ∧
    reads false [0xF7#8, 0x6C#8, 0x7F#8] [] (.imulEw (.mem (.disp8 .si 0x7F#8))) = true ∧
    reads false [0xF6#8, 0xF3#8] [] (.divEb (.reg .bl)) = true ∧
    reads false [0xF7#8, 0x74#8, 0x7F#8] [] (.divEw (.mem (.disp8 .si 0x7F#8))) = true := by decide
theorem test_decode_group3_2 :
    reads false [0xF6#8, 0xFB#8] [] (.idivEb (.reg .bl)) = true ∧
    reads false [0xF7#8, 0x7C#8, 0x7F#8] [] (.idivEw (.mem (.disp8 .si 0x7F#8))) = true := by decide
theorem test_decode_adjust :
    reads false [0x98#8] [] (.cbw) = true ∧
    reads false [0x99#8] [] (.cwd) = true ∧
    reads false [0x27#8] [] (.daa) = true ∧
    reads false [0x2F#8] [] (.das) = true ∧
    reads false [0x37#8] [] (.aaa) = true ∧
    reads false [0x3F#8] [] (.aas) = true ∧
    reads false [0xD4#8, 0x0A#8] [] (.aamIb 0x0A#8) = true ∧
    reads false [0xD5#8, 0x10#8] [] (.aadIb 0x10#8) = true := by decide
theorem test_decode_test :
    reads false [0x84#8, 0xDA#8] [] (.testEbGb (.reg .dl) .bl) = true ∧
    reads false [0x85#8, 0x0A#8] [] (.testEwGw (.mem (.base .bpsi)) .cx) = true ∧
    reads false [0xA8#8, 0x80#8] [] (.testAlIb 0x80#8) = true ∧
    reads false [0xA9#8, 0x01#8, 0x80#8] [] (.testAxIw 0x8001#16) = true ∧
    reads false [0xF6#8, 0x06#8, 0x00#8, 0x02#8, 0x01#8] [] (.testEbIb (.mem (.direct 0x0200#16)) 0x01#8) = true ∧
    reads false [0xF7#8, 0xC2#8, 0x34#8, 0x12#8] [] (.testEwIw (.reg .dx) 0x1234#16) = true := by decide
theorem test_decode_rol :
    reads false [0xD0#8, 0xC0#8] [] (.rolEb1 (.reg .al)) = true ∧
    reads false [0xD1#8, 0x07#8] [] (.rolEw1 (.mem (.base .bx))) = true ∧
    reads false [0xD2#8, 0x41#8, 0x01#8] [] (.rolEbCl (.mem (.disp8 .bxdi 0x01#8))) = true ∧
    reads false [0xD3#8, 0xC5#8] [] (.rolEwCl (.reg .bp)) = true ∧
    reads true [0xC0#8, 0xC4#8, 0x03#8] [] (.rolEbIb (.reg .ah) 0x03#8) = true ∧
    reads true [0xC1#8, 0x06#8, 0x10#8, 0x00#8, 0x1F#8] [] (.rolEwIb (.mem (.direct 0x0010#16)) 0x1F#8) = true := by decide
theorem test_decode_ror :
    reads false [0xD0#8, 0xC8#8] [] (.rorEb1 (.reg .al)) = true ∧
    reads false [0xD1#8, 0x0F#8] [] (.rorEw1 (.mem (.base .bx))) = true ∧
    reads false [0xD2#8, 0x49#8, 0x01#8] [] (.rorEbCl (.mem (.disp8 .bxdi 0x01#8))) = true ∧
    reads false [0xD3#8, 0xCD#8] [] (.rorEwCl (.reg .bp)) = true ∧
    reads true [0xC0#8, 0xCC#8, 0x03#8] [] (.rorEbIb (.reg .ah) 0x03#8) = true ∧
    reads true [0xC1#8, 0x0E#8, 0x10#8, 0x00#8, 0x1F#8] [] (.rorEwIb (.mem (.direct 0x0010#16)) 0x1F#8) = true := by decide
theorem test_decode_rcl :
    reads false [0xD0#8, 0xD0#8] [] (.rclEb1 (.reg .al)) = true ∧
    reads false [0xD1#8, 0x17#8] [] (.rclEw1 (.mem (.base .bx))) = true ∧
    reads false [0xD2#8, 0x51#8, 0x01#8] [] (.rclEbCl (.mem (.disp8 .bxdi 0x01#8))) = true ∧
    reads false [0xD3#8, 0xD5#8] [] (.rclEwCl (.reg .bp)) = true ∧
    reads true [0xC0#8, 0xD4#8, 0x03#8] [] (.rclEbIb (.reg .ah) 0x03#8) = true ∧
    reads true [0xC1#8, 0x16#8, 0x10#8, 0x00#8, 0x1F#8] [] (.rclEwIb (.mem (.direct 0x0010#16)) 0x1F#8) = true := by decide
theorem test_decode_rcr :
    reads false [0xD0#8, 0xD8#8] [] (.rcrEb1 (.reg .al)) = true ∧
    reads false [0xD1#8, 0x1F#8] [] (.rcrEw1 (.mem (.base .bx))) = true ∧
    reads false [0xD2#8, 0x59#8, 0x01#8] [] (.rcrEbCl (.mem (.disp8 .bxdi 0x01#8))) = true ∧
    reads false [0xD3#8, 0xDD#8] [] (.rcrEwCl (.reg .bp)) = true ∧
    reads true [0xC0#8, 0xDC#8, 0x03#8] [] (.rcrEbIb (.reg .ah) 0x03#8) = true ∧
    reads true [0xC1#8, 0x1E#8, 0x10#8, 0x00#8, 0x1F#8] [] (.rcrEwIb (.mem (.direct 0x0010#16)) 0x1F#8) = true := by decide
theorem test_decode_shl :
    reads false [0xD0#8, 0xE0#8] [] (.shlEb1 (.reg .al)) = true ∧
    reads false [0xD1#8, 0x27#8] [] (.shlEw1 (.mem (.base .bx))) = true ∧
    reads false [0xD2#8, 0x61#8, 0x01#8] [] (.shlEbCl (.mem (.disp8 .bxdi 0x01#8))) = true ∧
    reads false [0xD3#8, 0xE5#8] [] (.shlEwCl (.reg .bp)) = true ∧
    reads true [0xC0#8, 0xE4#8, 0x03#8] [] (.shlEbIb (.reg .ah) 0x03#8) = true ∧
    reads true [0xC1#8, 0x26#8, 0x10#8, 0x00#8, 0x1F#8] [] (.shlEwIb (.mem (.direct 0x0010#16)) 0x1F#8) = true := by decide
theorem test_decode_shr :
    reads false [0xD0#8, 0xE8#8] [] (.shrEb1 (.reg .al)) = true ∧
    reads false [0xD1#8, 0x2F#8] [] (.shrEw1 (.mem (.base .bx))) = true ∧
    reads false [0xD2#8, 0x69#8, 0x01#8] [] (.shrEbCl (.mem (.disp8 .bxdi 0x01#8))) = true ∧
    reads false [0xD3#8, 0xED#8] [] (.shrEwCl (.reg .bp)) = true ∧
    reads true [0xC0#8, 0xEC#8, 0x03#8] [] (.shrEbIb (.reg .ah) 0x03#8) = true ∧
    reads true [0xC1#8, 0x2E#8, 0x10#8, 0x00#8, 0x1F#8] [] (.shrEwIb (.mem (.direct 0x0010#16)) 0x1F#8) = true := by decide
theorem test_decode_sar :
    reads false [0xD0#8, 0xF8#8] [] (.sarEb1 (.reg .al)) = true ∧
    reads false [0xD1#8, 0x3F#8] [] (.sarEw1 (.mem (.base .bx))) = true ∧
    reads false [0xD2#8, 0x79#8, 0x01#8] [] (.sarEbCl (.mem (.disp8 .bxdi 0x01#8))) = true ∧
    reads false [0xD3#8, 0xFD#8] [] (.sarEwCl (.reg .bp)) = true ∧
    reads true [0xC0#8, 0xFC#8, 0x03#8] [] (.sarEbIb (.reg .ah) 0x03#8) = true ∧
    reads true [0xC1#8, 0x3E#8, 0x10#8, 0x00#8, 0x1F#8] [] (.sarEwIb (.mem (.direct 0x0010#16)) 0x1F#8) = true := by decide
theorem test_decode_mov :
    reads false [0x88#8, 0x0C#8] [] (.movEbGb (.mem (.base .si)) .cl) = true ∧
    reads false [0x89#8, 0xE3#8] [] (.movEwGw (.reg .bx) .sp) = true ∧
    reads false [0x8A#8, 0xC3#8] [] (.movGbEb .al (.reg .bl)) = true ∧
    reads false [0x8B#8, 0x04#8] [] (.movGwEw .ax (.mem (.base .si))) = true ∧
    reads false [0xC6#8, 0x06#8, 0x06#8, 0x01#8, 0x42#8] [] (.movEbIb (.mem (.direct 0x0106#16)) 0x42#8) = true ∧
    reads false [0xC7#8, 0x84#8, 0x00#8, 0x10#8, 0xCD#8, 0xAB#8] [] (.movEwIw (.mem (.disp16 .si 0x1000#16)) 0xABCD#16) = true ∧
    reads false [0xA0#8, 0x01#8, 0x02#8] [] (.movAlMoffs 0x0201#16) = true ∧
    reads false [0xA1#8, 0xFF#8, 0xFF#8] [] (.movAxMoffs 0xFFFF#16) = true ∧
    reads false [0xA2#8, 0x34#8, 0x12#8] [] (.movMoffsAl 0x1234#16) = true ∧
    reads false [0xA3#8, 0x28#8, 0x01#8] [] (.movMoffsAx 0x0128#16) = true := by decide
theorem test_decode_mov_segment :
    reads false [0x8C#8, 0xC3#8] [] (.movEwSw (.reg .bx) .es) = true ∧
    reads false [0x8C#8, 0x1F#8] [] (.movEwSw (.mem (.base .bx)) .ds) = true ∧
    reads false [0x8C#8, 0xC8#8] [] (.movEwSw (.reg .ax) .cs) = true ∧
    reads false [0x8C#8, 0xD7#8] [] (.movEwSw (.reg .di) .ss) = true ∧
    reads false [0x8E#8, 0xC0#8] [] (.movEsEw (.reg .ax)) = true ∧
    reads false [0x8E#8, 0x15#8] [] (.movSsEw (.mem (.base .di))) = true ∧
    reads false [0x8E#8, 0xD9#8] [] (.movDsEw (.reg .cx)) = true := by decide
theorem test_decode_stack :
    reads false [0xFF#8, 0x37#8] [] (.pushEw (.mem (.base .bx))) = true ∧
    reads false [0x8F#8, 0x07#8] [] (.popEw (.mem (.base .bx))) = true ∧
    reads false [0x06#8] [] (.pushEs) = true ∧
    reads false [0x0E#8] [] (.pushCs) = true ∧
    reads false [0x16#8] [] (.pushSs) = true ∧
    reads false [0x1E#8] [] (.pushDs) = true ∧
    reads false [0x07#8] [] (.popEs) = true ∧
    reads false [0x17#8] [] (.popSs) = true ∧
    reads false [0x1F#8] [] (.popDs) = true := by decide
theorem test_decode_exchange :
    reads false [0x86#8, 0xE0#8] [] (.xchgEbGb (.reg .al) .ah) = true ∧
    reads false [0x87#8, 0x11#8] [] (.xchgEwGw (.mem (.base .bxdi)) .dx) = true ∧
    reads false [0x91#8] [] (.xchgAxCx) = true ∧
    reads false [0x92#8] [] (.xchgAxDx) = true ∧
    reads false [0x93#8] [] (.xchgAxBx) = true ∧
    reads false [0x94#8] [] (.xchgAxSp) = true ∧
    reads false [0x95#8] [] (.xchgAxBp) = true ∧
    reads false [0x96#8] [] (.xchgAxSi) = true ∧
    reads false [0x97#8] [] (.xchgAxDi) = true ∧
    reads false [0xD7#8] [] (.xlat) = true := by decide
theorem test_decode_pointer :
    reads false [0x8D#8, 0x40#8, 0x7F#8] [] (.leaGwM .ax (.disp8 .bxsi 0x7F#8)) = true ∧
    reads false [0xC5#8, 0x37#8] [] (.ldsGwM .si (.base .bx)) = true ∧
    reads false [0xC4#8, 0x3E#8, 0x00#8, 0x02#8] [] (.lesGwM .di (.direct 0x0200#16)) = true := by decide
theorem test_decode_flags_and_ports :
    reads false [0x9F#8] [] (.lahf) = true ∧
    reads false [0x9E#8] [] (.sahf) = true ∧
    reads false [0x9C#8] [] (.pushf) = true ∧
    reads false [0x9D#8] [] (.popf) = true ∧
    reads false [0xEC#8] [] (.inAlDx) = true ∧
    reads false [0xED#8] [] (.inAxDx) = true ∧
    reads false [0xEE#8] [] (.outDxAl) = true ∧
    reads false [0xEF#8] [] (.outDxAx) = true ∧
    reads false [0xE4#8, 0x60#8] [] (.inAlIb 0x60#8) = true ∧
    reads false [0xE5#8, 0x60#8] [] (.inAxIb 0x60#8) = true := by decide
theorem test_decode_flags_and_ports_2 :
    reads false [0xE6#8, 0x60#8] [] (.outIbAl 0x60#8) = true ∧
    reads false [0xE7#8, 0x60#8] [] (.outIbAx 0x60#8) = true := by decide
theorem test_decode_jump_call_return :
    reads false [0xEB#8, 0xFE#8] [] (.jmpCb 0xFE#8) = true ∧
    reads false [0xE9#8, 0xFD#8, 0xFE#8] [] (.jmpCw 0xFEFD#16) = true ∧
    reads false [0xFF#8, 0xE3#8] [] (.jmpEw (.reg .bx)) = true ∧
    reads false [0xEA#8, 0x00#8, 0x10#8, 0x00#8, 0xF0#8] [] (.jmpFar 0x1000#16 0xF000#16) = true ∧
    reads false [0xFF#8, 0x6E#8, 0x02#8] [] (.jmpM (.disp8 .bp 0x02#8)) = true ∧
    reads false [0xE8#8, 0x01#8, 0x00#8] [] (.callCw 0x0001#16) = true ∧
    reads false [0xFF#8, 0x17#8] [] (.callEw (.mem (.base .bx))) = true ∧
    reads false [0x9A#8, 0x08#8, 0x01#8, 0x00#8, 0x10#8] [] (.callFar 0x0108#16 0x1000#16) = true ∧
    reads false [0xFF#8, 0x1E#8, 0x34#8, 0x12#8] [] (.callM (.direct 0x1234#16)) = true ∧
    reads false [0xC3#8] [] (.ret) = true := by decide
theorem test_decode_jump_call_return_2 :
    reads false [0xC2#8, 0x04#8, 0x00#8] [] (.retIw 0x0004#16) = true ∧
    reads false [0xCB#8] [] (.retf) = true ∧
    reads false [0xCA#8, 0x00#8, 0x02#8] [] (.retfIw 0x0200#16) = true := by decide
theorem test_decode_jcc :
    reads false [0x70#8, 0xF5#8] [] (.jo 0xF5#8) = true ∧
    reads false [0x71#8, 0xF5#8] [] (.jno 0xF5#8) = true ∧
    reads false [0x72#8, 0xF5#8] [] (.jb 0xF5#8) = true ∧
    reads false [0x73#8, 0xF5#8] [] (.jnb 0xF5#8) = true ∧
    reads false [0x74#8, 0xF5#8] [] (.je 0xF5#8) = true ∧
    reads false [0x75#8, 0xF5#8] [] (.jne 0xF5#8) = true ∧
    reads false [0x76#8, 0xF5#8] [] (.jbe 0xF5#8) = true ∧
    reads false [0x77#8, 0xF5#8] [] (.ja 0xF5#8) = true ∧
    reads false [0x78#8, 0xF5#8] [] (.js 0xF5#8) = true ∧
    reads false [0x79#8, 0xF5#8] [] (.jns 0xF5#8) = true := by decide
theorem test_decode_jcc_2 :
    reads false [0x7A#8, 0xF5#8] [] (.jp 0xF5#8) = true ∧
    reads false [0x7B#8, 0xF5#8] [] (.jnp 0xF5#8) = true ∧
    reads false [0x7C#8, 0xF5#8] [] (.jl 0xF5#8) = true ∧
    reads false [0x7D#8, 0xF5#8] [] (.jge 0xF5#8) = true ∧
    reads false [0x7E#8, 0xF5#8] [] (.jle 0xF5#8) = true ∧
    reads false [0x7F#8, 0xF5#8] [] (.jg 0xF5#8) = true := by decide
theorem test_decode_loops_and_interrupts :
    reads false [0xE0#8, 0x10#8] [] (.loopne 0x10#8) = true ∧
    reads false [0xE1#8, 0x10#8] [] (.loope 0x10#8) = true ∧
    reads false [0xE2#8, 0x10#8] [] (.loop 0x10#8) = true ∧
    reads false [0xE3#8, 0x10#8] [] (.jcxz 0x10#8) = true ∧
    reads false [0xCD#8, 0x21#8] [] (.intIb 0x21#8) = true ∧
    reads false [0xCC#8] [] (.int3) = true ∧
    reads false [0xCE#8] [] (.into) = true ∧
    reads false [0xCF#8] [] (.iret) = true := by decide
theorem test_decode_strings :
    reads false [0xA4#8] [] (.movsb) = true ∧
    reads false [0xA5#8] [] (.movsw) = true ∧
    reads false [0xA6#8] [] (.cmpsb) = true ∧
    reads false [0xA7#8] [] (.cmpsw) = true ∧
    reads false [0xAA#8] [] (.stosb) = true ∧
    reads false [0xAB#8] [] (.stosw) = true ∧
    reads false [0xAC#8] [] (.lodsb) = true ∧
    reads false [0xAD#8] [] (.lodsw) = true ∧
    reads false [0xAE#8] [] (.scasb) = true ∧
    reads false [0xAF#8] [] (.scasw) = true := by decide
theorem test_decode_control :
    reads false [0x90#8] [] (.nop) = true ∧
    reads false [0x9B#8] [] (.wait) = true ∧
    reads false [0xF4#8] [] (.hlt) = true ∧
    reads false [0xF5#8] [] (.cmc) = true ∧
    reads false [0xF8#8] [] (.clc) = true ∧
    reads false [0xF9#8] [] (.stc) = true ∧
    reads false [0xFA#8] [] (.cli) = true ∧
    reads false [0xFB#8] [] (.sti) = true ∧
    reads false [0xFC#8] [] (.cld) = true ∧
    reads false [0xFD#8] [] (.std) = true := by decide
theorem test_decode_control_2 :
    reads false [0xD8#8, 0x06#8, 0x00#8, 0x02#8] [] (.esc 0#3 0#3 (.mem (.direct 0x0200#16))) = true ∧
    reads false [0xDF#8, 0xEF#8] [] (.esc 7#3 5#3 (.reg .di)) = true := by decide
theorem test_decode_bytes_of_r94 :
    reads false [0x26#8, 0x90#8] [.es] (.nop) = true ∧
    reads false [0x2E#8, 0x90#8] [.cs] (.nop) = true ∧
    reads false [0x36#8, 0x90#8] [.ss] (.nop) = true ∧
    reads false [0x3E#8, 0x90#8] [.ds] (.nop) = true ∧
    reads false [0xF0#8, 0x90#8] [.lock] (.nop) = true ∧
    reads false [0xF2#8, 0x90#8] [.repne] (.nop) = true ∧
    reads false [0xF3#8, 0x90#8] [.rep] (.nop) = true ∧
    reads false [0x26#8, 0xF3#8, 0xA5#8] [.es, .rep] (.movsw) = true := by decide
theorem test_decode_invalid :
    reads true [0x0F#8] [] (.invalid [0x0F#8]) = true ∧
    reads true [0x63#8] [] (.invalid [0x63#8]) = true ∧
    reads true [0x64#8] [] (.invalid [0x64#8]) = true ∧
    reads true [0x65#8] [] (.invalid [0x65#8]) = true ∧
    reads true [0x66#8] [] (.invalid [0x66#8]) = true ∧
    reads true [0x67#8] [] (.invalid [0x67#8]) = true ∧
    reads true [0xD6#8] [] (.invalid [0xD6#8]) = true ∧
    reads true [0xF1#8] [] (.invalid [0xF1#8]) = true ∧
    reads false [0x60#8] [] (.invalid [0x60#8]) = true ∧
    reads false [0x6F#8] [] (.invalid [0x6F#8]) = true := by decide
theorem test_decode_invalid_2 :
    reads false [0xC0#8] [] (.invalid [0xC0#8]) = true ∧
    reads false [0xC1#8] [] (.invalid [0xC1#8]) = true ∧
    reads false [0xC8#8] [] (.invalid [0xC8#8]) = true ∧
    reads false [0xC9#8] [] (.invalid [0xC9#8]) = true := by decide
theorem test_decode_invalid_modrm :
    reads false [0x8C#8, 0xE0#8] [] (.invalid [0x8C#8, 0xE0#8]) = true ∧
    reads false [0x8E#8, 0xC8#8] [] (.invalid [0x8E#8, 0xC8#8]) = true ∧
    reads false [0x8E#8, 0xF0#8] [] (.invalid [0x8E#8, 0xF0#8]) = true ∧
    reads false [0x8D#8, 0xC0#8] [] (.invalid [0x8D#8, 0xC0#8]) = true ∧
    reads false [0xC4#8, 0xC0#8] [] (.invalid [0xC4#8, 0xC0#8]) = true ∧
    reads false [0xC5#8, 0xFF#8] [] (.invalid [0xC5#8, 0xFF#8]) = true ∧
    reads false [0x8F#8, 0xC8#8] [] (.invalid [0x8F#8, 0xC8#8]) = true ∧
    reads false [0xC6#8, 0x48#8] [] (.invalid [0xC6#8, 0x48#8]) = true ∧
    reads false [0xC7#8, 0xF8#8] [] (.invalid [0xC7#8, 0xF8#8]) = true ∧
    reads false [0xD0#8, 0x30#8] [] (.invalid [0xD0#8, 0x30#8]) = true := by decide
theorem test_decode_invalid_modrm_2 :
    reads false [0xD3#8, 0xF0#8] [] (.invalid [0xD3#8, 0xF0#8]) = true ∧
    reads false [0xF6#8, 0x08#8] [] (.invalid [0xF6#8, 0x08#8]) = true ∧
    reads false [0xF7#8, 0xC8#8] [] (.invalid [0xF7#8, 0xC8#8]) = true ∧
    reads false [0xFE#8, 0xD0#8] [] (.invalid [0xFE#8, 0xD0#8]) = true ∧
    reads false [0xFF#8, 0xF8#8] [] (.invalid [0xFF#8, 0xF8#8]) = true ∧
    reads false [0xFF#8, 0xD8#8] [] (.invalid [0xFF#8, 0xD8#8]) = true ∧
    reads false [0xFF#8, 0xE8#8] [] (.invalid [0xFF#8, 0xE8#8]) = true ∧
    reads true [0x62#8, 0xC0#8] [] (.invalid [0x62#8, 0xC0#8]) = true ∧
    reads true [0xC0#8, 0xF0#8] [] (.invalid [0xC0#8, 0xF0#8]) = true ∧
    reads true [0xC1#8, 0x30#8] [] (.invalid [0xC1#8, 0x30#8]) = true := by decide
theorem test_decode_extension186 :
    reads true [0x60#8] [] (.pusha) = true ∧
    reads true [0x61#8] [] (.popa) = true ∧
    reads true [0x62#8, 0x07#8] [] (.boundGwM .ax (.base .bx)) = true ∧
    reads true [0x68#8, 0x34#8, 0x12#8] [] (.pushIw 0x1234#16) = true ∧
    reads true [0x6A#8, 0xFF#8] [] (.pushIb 0xFF#8) = true ∧
    reads true [0x69#8, 0xCA#8, 0x02#8, 0x01#8] [] (.imulGwEwIw .cx (.reg .dx) 0x0102#16) = true ∧
    reads true [0x6B#8, 0xC3#8, 0x0A#8] [] (.imulGwEwIb .ax (.reg .bx) 0x0A#8) = true ∧
    reads true [0x6C#8] [] (.insb) = true ∧
    reads true [0x6D#8] [] (.insw) = true ∧
    reads true [0x6E#8] [] (.outsb) = true := by decide
theorem test_decode_extension186_2 :
    reads true [0x6F#8] [] (.outsw) = true ∧
    reads true [0xC9#8] [] (.leave) = true ∧
    reads true [0xC8#8, 0x08#8, 0x00#8, 0x01#8] [] (.enterIwIb 0x0008#16 0x01#8) = true := by decide

-- Fifteen bytes of R94 are one Invalid of length 15, and nothing of the next byte is consumed (R127).
theorem test_decode_fifteen_bytes_of_r94 :
    decode false (List.replicate 15 0x26#8 ++ [0x90#8]) = .ok (⟨[], .invalid (List.replicate 15 0x26#8)⟩, [0x90#8]) := by decide
-- An Invalid of two bytes consumes no displacement (R127).
theorem test_decode_invalid_takes_no_displacement :
    decode false [0x8E#8, 0x8E#8, 0x01#8, 0x02#8] = .ok (⟨[], .invalid [0x8E#8, 0x8E#8]⟩, [0x01#8, 0x02#8]) := by decide
-- Opcode 82 is an alias of 80 (R118).
theorem test_decode_82 : reads false [0x82#8, 0xC0#8, 0x01#8] [] (.addEbIb (.reg .al) 0x01#8) = true := by decide
theorem test_decode_truncated : decode false [0x05#8, 0x03#8] = .error .truncated := by decide
-- The lengths of 95_test_vectors.md section 2.10 (R109).
theorem test_length_six : Decoded.len ⟨[], .addEwIw (.mem (.direct 0x1234#16)) 0x5678#16⟩ = 6 := by decide
theorem test_length_three : Decoded.len ⟨[.es, .rep], .movsw⟩ = 3 := by decide
-- The table's words: opcode byte above the ModRM byte (R132).
theorem test_table_word_add : decodeTableWord 16 0x0000 = some (.addEbGb (.mem (.base .bxsi)) .al) := by decide
theorem test_table_word_group : decodeTableWord 16 0xF618 = some (.negEb (.mem (.base .bxsi))) := by decide
theorem test_table_word_prefix : decodeTableWord 8 0xF3 = some .rep := by decide

/-! ## Single steps: the vectors of spec/95_test_vectors.md -/

-- Section 2.1 and the worked examples S2, S3, S12.
theorem test_add_wraps : after [0x05#8, 0x01#8, 0x00#8] (ax 0xFFFF#16) (fun t => (t.reg16 .ax, t.flags.image)) = some (0x0000#16, 0xF057#16) := by decide
theorem test_add_overflows : after [0x05#8, 0x01#8, 0x00#8] (ax 0x7FFF#16) (fun t => (t.reg16 .ax, t.flags.image)) = some (0x8000#16, 0xF896#16) := by decide
theorem test_add_same_register : after [0x00#8, 0xC0#8] (ax 0x0080#16) (fun t => (t.reg16 .ax, t.flags.image)) = some (0x0000#16, 0xF847#16) := by decide
theorem test_add_word_registers : after [0x01#8, 0xD8#8] (axbx 0x1234#16 0x0FCD#16) (fun t => (t.reg16 .ax, t.flags.image)) = some (0x2201#16, 0xF012#16) := by decide
theorem test_add_sign_extended_byte : after [0x83#8, 0xC3#8, 0xFF#8] (axbx 0#16 1#16) (fun t => (t.reg16 .bx, t.flags.image)) = some (0x0000#16, 0xF057#16) := by decide
theorem test_adc_ff_ff_1 : after [0x14#8, 0xFF#8] (image 0xF003#16 (ax 0x00FF#16)) (fun t => (t.reg8 .al, t.flags.image)) = some (0xFF#8, 0xF097#16) := by decide
theorem test_adc_carry_in : after [0x14#8, 0x00#8] (image 0xF003#16 (ax 0x00FF#16)) (fun t => (t.reg8 .al, t.flags.image)) = some (0x00#8, 0xF057#16) := by decide
theorem test_sub_borrows : after [0x2C#8, 0x01#8] base (fun t => (t.reg8 .al, t.flags.image)) = some (0xFF#8, 0xF097#16) := by decide
theorem test_sub_overflows : after [0x2C#8, 0xFF#8] (ax 0x007F#16) (fun t => (t.reg8 .al, t.flags.image)) = some (0x80#8, 0xF883#16) := by decide
theorem test_sbb_borrow_in : after [0x19#8, 0xD8#8] (image 0xF003#16 base) (fun t => (t.reg16 .ax, t.flags.image)) = some (0xFFFF#16, 0xF097#16) := by decide
theorem test_sbb_ff_1 : after [0x1C#8, 0xFF#8] (image 0xF003#16 base) (fun t => (t.reg8 .al, t.flags.image)) = some (0x00#8, 0xF057#16) := by decide
theorem test_cmp_keeps : after [0x3D#8, 0x35#8, 0x12#8] (ax 0x1234#16) (fun t => (t.reg16 .ax, t.flags.image)) = some (0x1234#16, 0xF097#16) := by decide
theorem test_inc_keeps_carry : after [0x40#8] (image 0xF003#16 (ax 0xFFFF#16)) (fun t => (t.reg16 .ax, t.flags.image)) = some (0x0000#16, 0xF057#16) := by decide
theorem test_inc_byte_keeps_high_half : after [0xFE#8, 0xC0#8] (ax 0x12FF#16) (fun t => t.reg16 .ax) = some 0x1200#16 := by decide
theorem test_dec_overflows : after [0x48#8] (ax 0x8000#16) (fun t => (t.reg16 .ax, t.flags.image)) = some (0x7FFF#16, 0xF816#16) := by decide
theorem test_neg_80 : after [0xF6#8, 0xD8#8] (ax 0x0080#16) (fun t => (t.reg8 .al, t.flags.image)) = some (0x80#8, 0xF883#16) := by decide
theorem test_neg_zero : after [0xF7#8, 0xD8#8] (image 0xF003#16 base) (fun t => (t.reg16 .ax, t.flags.image)) = some (0x0000#16, 0xF046#16) := by decide
theorem test_cbw : after [0x98#8] (ax 0x1280#16) (fun t => (t.reg16 .ax, t.flags.image)) = some (0xFF80#16, 0xF002#16) := by decide
theorem test_cwd : after [0x99#8] ((ax 0x8000#16).setReg16 .dx 0x1234#16) (fun t => (t.reg16 .dx, t.flags.image)) = some (0xFFFF#16, 0xF002#16) := by decide
-- Section 2.2: the flags named are the defined ones.
theorem test_mul_byte : after [0xF6#8, 0xE3#8] (axbx 0x00FF#16 0x00FF#16) (fun t => (t.reg16 .ax, t.flags.CF, t.flags.OF)) = some (0xFE01#16, true, true) := by decide
theorem test_mul_word : after [0xF7#8, 0xE3#8] (axbx 0xFFFF#16 0xFFFF#16) (fun t => (t.reg16 .dx, t.reg16 .ax, t.flags.CF, t.flags.OF)) = some (0xFFFE#16, 0x0001#16, true, true) := by decide
theorem test_imul_byte : after [0xF6#8, 0xEB#8] (axbx 0x0040#16 0x0002#16) (fun t => (t.reg16 .ax, t.flags.CF, t.flags.OF)) = some (0x0080#16, true, true) := by decide
theorem test_imul_byte_fits : after [0xF6#8, 0xEB#8] (axbx 0x00FF#16 0x0002#16) (fun t => (t.reg16 .ax, t.flags.CF, t.flags.OF)) = some (0xFFFE#16, false, false) := by decide
theorem test_imul_word : after [0xF7#8, 0xEB#8] (axbx 0x8000#16 0x8000#16) (fun t => (t.reg16 .dx, t.reg16 .ax, t.flags.CF, t.flags.OF)) = some (0x4000#16, 0x0000#16, true, true) := by decide
theorem test_imul_word_fits : after [0xF7#8, 0xEB#8] (axbx 0xFFFF#16 0x0002#16) (fun t => (t.reg16 .dx, t.reg16 .ax, t.flags.CF, t.flags.OF)) = some (0xFFFF#16, 0xFFFE#16, false, false) := by decide
theorem test_div_byte : after [0xF6#8, 0xF0#8] (ax 0x0105#16) (fun t => (t.reg8 .al, t.reg8 .ah)) = some (0x34#8, 0x01#8) := by decide
theorem test_div_byte_overflow : after [0xF6#8, 0xF3#8] (axbx 0x0400#16 0x0002#16) (fun t => (t.reg16 .ax, t.reg16 .sp, t.read16 0x1000#16 0xFFF8#16, t.ip)) = some (0x0400#16, 0xFFF8#16, 0x0102#16, 0x0000#16) := by decide
theorem test_div_word : after [0xF7#8, 0xF3#8] ((axbx 0x3456#16 0x1000#16).setReg16 .dx 0x0012#16) (fun t => (t.reg16 .ax, t.reg16 .dx)) = some (0x0123#16, 0x0456#16) := by decide
theorem test_idiv_truncates : after [0xF6#8, 0xFB#8] (axbx 0xFFF9#16 0x0002#16) (fun t => (t.reg8 .al, t.reg8 .ah)) = some (0xFD#8, 0xFF#8) := by decide
theorem test_idiv_minus_128_raises : after [0xF6#8, 0xFB#8] (axbx 0xFF80#16 0x0001#16) (fun t => (t.reg16 .ax, t.reg16 .sp)) = some (0xFF80#16, 0xFFF8#16) := by decide
theorem test_idiv_word : after [0xF7#8, 0xFB#8] ((axbx 0x8001#16 0x0001#16).setReg16 .dx 0xFFFF#16) (fun t => (t.reg16 .ax, t.reg16 .dx)) = some (0x8001#16, 0x0000#16) := by decide
theorem test_idiv_word_raises : after [0xF7#8, 0xFB#8] ((axbx 0x0000#16 0xFFFF#16).setReg16 .dx 0x8000#16) (fun t => (t.reg16 .dx, t.reg16 .sp)) = some (0x8000#16, 0xFFF8#16) := by decide
-- Section 2.3.
theorem test_daa_low : after [0x27#8] (ax 0x002E#16) (fun t => (t.reg8 .al, (t.flags.CF, t.flags.AF, t.flags.ZF, t.flags.SF, t.flags.PF))) = some (0x34#8, (false, true, false, false, false)) := by decide
theorem test_daa_both : after [0x27#8] (ax 0x009A#16) (fun t => (t.reg8 .al, (t.flags.CF, t.flags.AF, t.flags.ZF, t.flags.SF, t.flags.PF))) = some (0x00#8, (true, true, true, false, true)) := by decide
theorem test_das_both : after [0x2F#8] (image 0xF013#16 (ax 0x00EE#16)) (fun t => (t.reg8 .al, (t.flags.CF, t.flags.AF, t.flags.ZF, t.flags.SF, t.flags.PF))) = some (0x88#8, (true, true, false, true, true)) := by decide
theorem test_das_borrow : after [0x2F#8] (image 0xF012#16 (ax 0x0005#16)) (fun t => (t.reg8 .al, (t.flags.CF, t.flags.AF, t.flags.ZF, t.flags.SF, t.flags.PF))) = some (0xFF#8, (true, true, false, true, true)) := by decide
theorem test_aaa : after [0x37#8] (ax 0x000C#16) (fun t => (t.reg16 .ax, t.flags.AF, t.flags.CF)) = some (0x0102#16, true, true) := by decide
theorem test_aas : after [0x3F#8] (image 0xF012#16 (ax 0x01FE#16)) (fun t => (t.reg16 .ax, t.flags.AF, t.flags.CF)) = some (0x0008#16, true, true) := by decide
theorem test_aam : after [0xD4#8, 0x0A#8] (ax 0x003F#16) (fun t => (t.reg16 .ax, t.flags.ZF, t.flags.SF, t.flags.PF)) = some (0x0603#16, false, false, true) := by decide
theorem test_aam_zero_raises : after [0xD4#8, 0x00#8] (ax 0x003F#16) (fun t => (t.reg16 .ax, t.read16 0x1000#16 0xFFF8#16)) = some (0x003F#16, 0x0102#16) := by decide
theorem test_aad : after [0xD5#8, 0x0A#8] (ax 0x0603#16) (fun t => (t.reg16 .ax, t.flags.ZF, t.flags.SF, t.flags.PF)) = some (0x003F#16, false, false, true) := by decide
-- Section 2.4.
theorem test_and : after [0x24#8, 0x0F#8] (image 0xF813#16 (ax 0x00F5#16)) (fun t => (t.reg8 .al, t.flags.image)) = some (0x05#8, 0xF006#16) := by decide
theorem test_or : after [0x0C#8, 0x80#8] (ax 0x0001#16) (fun t => (t.reg8 .al, t.flags.image)) = some (0x81#8, 0xF086#16) := by decide
theorem test_xor : after [0x31#8, 0xC0#8] (image 0xF803#16 (ax 0x1234#16)) (fun t => (t.reg16 .ax, t.flags.image)) = some (0x0000#16, 0xF046#16) := by decide
theorem test_test : after [0xA8#8, 0x80#8] (ax 0x0080#16) (fun t => (t.reg8 .al, t.flags.image)) = some (0x80#8, 0xF082#16) := by decide
theorem test_not : after [0xF7#8, 0xD0#8] (image 0xF043#16 (ax 0x00FF#16)) (fun t => (t.reg16 .ax, t.flags.image)) = some (0xFF00#16, 0xF043#16) := by decide
theorem test_table_word_bytes_of_r94 :
    decodeTableWord 8 0x26 = some .segEs ∧
    decodeTableWord 8 0x2E = some .segCs ∧
    decodeTableWord 8 0x36 = some .segSs ∧
    decodeTableWord 8 0x3E = some .segDs ∧
    decodeTableWord 8 0xF0 = some .lock ∧
    decodeTableWord 8 0xF2 = some .repne := by decide
-- Shifts and rotates: OF only for count 1.
theorem test_shl_by_1 : after [0xD0#8, 0xE0#8] (ax 0x0081#16) (fun t => (t.reg8 .al, t.flags.CF, t.flags.OF, t.flags.ZF, t.flags.SF, t.flags.PF)) = some (0x02#8, true, true, false, false, false) := by decide
theorem test_shl_by_9 : after [0xD2#8, 0xE0#8] ((ax 0x00FF#16).setReg16 .cx 0x0009#16) (fun t => (t.reg8 .al, t.flags.CF, t.flags.ZF, t.flags.SF, t.flags.PF)) = some (0x00#8, false, true, false, true) := by decide
theorem test_shl_by_0_keeps_flags : after [0xD2#8, 0xE0#8] (image 0xF003#16 ((ax 0x0081#16).setReg16 .cx 0x0000#16)) (fun t => (t.reg8 .al, t.flags.image)) = some (0x81#8, 0xF003#16) := by decide
theorem test_shl_word_by_16 : after [0xD3#8, 0xE0#8] ((ax 0xFFFF#16).setReg16 .cx 0x0010#16) (fun t => (t.reg16 .ax, t.flags.CF, t.flags.ZF, t.flags.SF, t.flags.PF)) = some (0x0000#16, true, true, false, true) := by decide
theorem test_shr_by_1 : after [0xD0#8, 0xE8#8] (ax 0x0081#16) (fun t => (t.reg8 .al, t.flags.CF, t.flags.OF, t.flags.ZF, t.flags.SF, t.flags.PF)) = some (0x40#8, true, true, false, false, false) := by decide
theorem test_shr_word_by_15 : after [0xD3#8, 0xE8#8] ((ax 0x8000#16).setReg16 .cx 0x000F#16) (fun t => (t.reg16 .ax, t.flags.CF, t.flags.ZF, t.flags.SF, t.flags.PF)) = some (0x0001#16, false, false, false, false) := by decide
theorem test_sar_by_1 : after [0xD0#8, 0xF8#8] (ax 0x0081#16) (fun t => (t.reg8 .al, t.flags.CF, t.flags.OF, t.flags.ZF, t.flags.SF, t.flags.PF)) = some (0xC0#8, true, false, false, true, true) := by decide
theorem test_sar_by_8 : after [0xD2#8, 0xF8#8] ((ax 0x0080#16).setReg16 .cx 0x0008#16) (fun t => (t.reg8 .al, t.flags.CF, t.flags.ZF, t.flags.SF, t.flags.PF)) = some (0xFF#8, true, false, true, true) := by decide
theorem test_rol_by_1 : after [0xD0#8, 0xC0#8] (ax 0x0081#16) (fun t => (t.reg8 .al, t.flags.CF, t.flags.OF, t.flags.ZF, t.flags.SF, t.flags.PF)) = some (0x03#8, true, true, false, false, false) := by decide
theorem test_rol_by_8 : after [0xD2#8, 0xC0#8] ((ax 0x0081#16).setReg16 .cx 0x0008#16) (fun t => (t.reg8 .al, t.flags.CF)) = some (0x81#8, true) := by decide
theorem test_ror_by_1 : after [0xD0#8, 0xC8#8] (ax 0x0001#16) (fun t => (t.reg8 .al, t.flags.CF, t.flags.OF, t.flags.ZF, t.flags.SF, t.flags.PF)) = some (0x80#8, true, true, false, false, false) := by decide
theorem test_ror_by_4 : after [0xD2#8, 0xC8#8] ((ax 0x0081#16).setReg16 .cx 0x0004#16) (fun t => (t.reg8 .al, t.flags.CF)) = some (0x18#8, false) := by decide
theorem test_rcl_by_1 : after [0xD0#8, 0xD0#8] (image 0xF003#16 (ax 0x0080#16)) (fun t => (t.reg8 .al, t.flags.CF, t.flags.OF, t.flags.ZF, t.flags.SF, t.flags.PF)) = some (0x01#8, true, true, false, false, false) := by decide
theorem test_rcl_by_9 : after [0xD2#8, 0xD0#8] (image 0xF003#16 ((ax 0x0080#16).setReg16 .cx 0x0009#16)) (fun t => (t.reg8 .al, t.flags.CF)) = some (0x80#8, true) := by decide
theorem test_rcr_by_1 : after [0xD0#8, 0xD8#8] (image 0xF003#16 (ax 0x0001#16)) (fun t => (t.reg8 .al, t.flags.CF, t.flags.OF, t.flags.ZF, t.flags.SF, t.flags.PF)) = some (0x80#8, true, true, false, false, false) := by decide
theorem test_rcr_word_by_2 : after [0xD3#8, 0xD8#8] ((ax 0x0001#16).setReg16 .cx 0x0002#16) (fun t => (t.reg16 .ax, t.flags.CF)) = some (0x8000#16, false) := by decide
theorem test_count_32_without_186 : after [0xD2#8, 0xE0#8] ((ax 0x00FF#16).setReg16 .cx 0x0020#16) (fun t => (t.reg8 .al, t.flags.CF)) = some (0x00#8, false) := by decide
theorem test_count_32_with_186 : after [0xD2#8, 0xE0#8] ((base186.setReg16 .ax 0x00FF#16).setReg16 .cx 0x0020#16) (fun t => (t.reg8 .al, t.flags.image)) = some (0xFF#8, 0xF002#16) := by decide
-- Section 2.5.
theorem test_mov_r16 : after [0xB8#8, 0x34#8, 0x12#8] base (fun t => (t.reg16 .ax, t.ip, t.flags.image)) = some (0x1234#16, 0x0103#16, 0xF002#16) := by decide
theorem test_mov_r8 : after [0xB4#8, 0x09#8] (ax 0x1234#16) (fun t => t.reg16 .ax) = some 0x0934#16 := by decide
theorem test_mov_gb_eb : after [0x8A#8, 0xC3#8] (base.setReg16 .bx 0x00AB#16) (fun t => t.reg8 .al) = some 0xAB#8 := by decide
theorem test_default_segment_of_bp : after [0x8A#8, 0x46#8, 0x00#8] ((((base.setReg16 .bp 0x0010#16).setSeg .ss 0x2000#16).write8 0x2000#16 0x0010#16 0xAA#8).write8 0x1000#16 0x0010#16 0xBB#8) (fun t => (t.reg8 .al, t.ip)) = some (0xAA#8, 0x0103#16) := by decide
theorem test_override_of_bp : after [0x3E#8, 0x8A#8, 0x46#8, 0x00#8] ((((base.setReg16 .bp 0x0010#16).setSeg .ss 0x2000#16).write8 0x2000#16 0x0010#16 0xAA#8).write8 0x1000#16 0x0010#16 0xBB#8) (fun t => (t.reg8 .al, t.ip)) = some (0xBB#8, 0x0104#16) := by decide
theorem test_override_by_es : after [0x26#8, 0x8A#8, 0x07#8] (((base.setReg16 .bx 0x0010#16).setSeg .es 0x2000#16).write8 0x2000#16 0x0010#16 0x77#8) (fun t => (t.reg8 .al, t.pfx)) = some (0x77#8, Pfx.none) := by decide
theorem test_mov_ax_moffs_wraps : after [0xA1#8, 0xFF#8, 0xFF#8] ((base.write8 0x1000#16 0xFFFF#16 0x34#8).write8 0x1000#16 0x0000#16 0x12#8) (fun t => t.reg16 .ax) = some 0x1234#16 := by decide
theorem test_mov_eb_ib : after [0xC6#8, 0x06#8, 0x06#8, 0x01#8, 0x42#8] base (fun t => (t.read8 0x1000#16 0x0106#16, t.ip)) = some (0x42#8, 0x0105#16) := by decide
theorem test_mov_es_ew : after [0x8E#8, 0xC0#8] (ax 0x1234#16) (fun t => t.seg .es) = some 0x1234#16 := by decide
theorem test_mov_ew_es : after [0x8C#8, 0xC3#8] (base.setSeg .es 0x1234#16) (fun t => t.reg16 .bx) = some 0x1234#16 := by decide
theorem test_mov_cs_is_invalid : after [0x8E#8, 0xC8#8] base (fun t => (t.reg16 .sp, t.read16 0x1000#16 0xFFF8#16, t.ip)) = some (0xFFF8#16, 0x0102#16, 0x0000#16) := by decide
theorem test_push_wraps_sp : after [0x50#8] ((base.setReg16 .ax 0xBEEF#16).setReg16 .sp 0x0000#16) (fun t => (t.reg16 .sp, t.read8 0x1000#16 0xFFFE#16, t.read8 0x1000#16 0xFFFF#16)) = some (0xFFFE#16, 0xEF#8, 0xBE#8) := by decide
theorem test_push_splits_a_word : after [0x50#8] ((base.setReg16 .ax 0xBEEF#16).setReg16 .sp 0x0001#16) (fun t => (t.reg16 .sp, t.read8 0x1000#16 0xFFFF#16, t.read8 0x1000#16 0#16)) = some (0xFFFF#16, 0xEF#8, 0xBE#8) := by decide
theorem test_push_sp : after [0x54#8] (base.setReg16 .sp 0x0200#16) (fun t => (t.reg16 .sp, t.read16 0x1000#16 0x01FE#16)) = some (0x01FE#16, 0x01FE#16) := by decide
theorem test_push_sp_group : after [0xFF#8, 0xF4#8] (base.setReg16 .sp 0x0200#16) (fun t => (t.reg16 .sp, t.read16 0x1000#16 0x01FE#16)) = some (0x01FE#16, 0x01FE#16) := by decide
theorem test_pop_sp : after [0x5C#8] ((base.setReg16 .sp 0x0200#16).write16 0x1000#16 0x0200#16 0x1234#16) (fun t => t.reg16 .sp) = some 0x1234#16 := by decide
theorem test_pop_ew : after [0x8F#8, 0x07#8] (((base.setReg16 .sp 0x0200#16).setReg16 .bx 0x0300#16).write16 0x1000#16 0x0200#16 0xABCD#16) (fun t => (t.read16 0x1000#16 0x0300#16, t.reg16 .sp)) = some (0xABCD#16, 0x0202#16) := by decide
theorem test_xchg_al_ah : after [0x86#8, 0xE0#8] (ax 0x1234#16) (fun t => t.reg16 .ax) = some 0x3412#16 := by decide
theorem test_xchg_ax_bx : after [0x93#8] (axbx 1#16 2#16) (fun t => (t.reg16 .ax, t.reg16 .bx)) = some (0x0002#16, 0x0001#16) := by decide
theorem test_xlat : after [0xD7#8] (((base.setReg16 .bx 0x0200#16).setReg16 .ax 0x00FF#16).write8 0x1000#16 0x02FF#16 0x5A#8) (fun t => t.reg16 .ax) = some 0x005A#16 := by decide
theorem test_lea_wraps : after [0x8D#8, 0x40#8, 0x7F#8] ((base.setReg16 .bx 0xFFF0#16).setReg16 .si 0x0020#16) (fun t => t.reg16 .ax) = some 0x008F#16 := by decide
theorem test_lea_signed : after [0x8D#8, 0x43#8, 0xFF#8] base (fun t => t.reg16 .ax) = some 0xFFFF#16 := by decide
theorem test_lds : after [0xC5#8, 0x37#8] (((base.setReg16 .bx 0x0200#16).write16 0x1000#16 0x0200#16 0x5678#16).write16 0x1000#16 0x0202#16 0x2000#16) (fun t => (t.reg16 .si, t.seg .ds)) = some (0x5678#16, 0x2000#16) := by decide
theorem test_les : after [0xC4#8, 0x3E#8, 0x00#8, 0x02#8] (((base.setReg16 .bx 0x0200#16).write16 0x1000#16 0x0200#16 0x5678#16).write16 0x1000#16 0x0202#16 0x2000#16) (fun t => (t.reg16 .di, t.seg .es, t.ip)) = some (0x5678#16, 0x2000#16, 0x0104#16) := by decide
theorem test_lahf : after [0x9F#8] (image 0xF0C3#16 base) (fun t => t.reg16 .ax) = some 0xC300#16 := by decide
theorem test_lahf_all : after [0x9F#8] (image 0xF0D7#16 base) (fun t => t.reg8 .ah) = some 0xD7#8 := by decide
theorem test_sahf : after [0x9E#8] (image 0xFC02#16 (ax 0xFF00#16)) (fun t => t.flags.image) = some 0xFCD7#16 := by decide
theorem test_pushf : after [0x9C#8] (image 0xF243#16 base) (fun t => t.read16 0x1000#16 0xFFFC#16) = some 0xF243#16 := by decide
theorem test_popf : after [0x9D#8] ((base.setReg16 .sp 0x0200#16).write16 0x1000#16 0x0200#16 0x0FD5#16) (fun t => (t.flags.image, t.reg16 .sp)) = some (0xFFD7#16, 0x0202#16) := by decide
theorem test_out_dx_al : after [0xEE#8] ((base.setReg16 .dx 0x03F8#16).setReg16 .ax 0x0041#16) (fun t => (t.io, t.reg16 .ax)) = some ([IoEvent.write8 0x03F8#16 0x41#8], 0x0041#16) := by decide
-- The byte that IN reads is an input: only where it comes from and where it lands is known.
theorem test_in_al_ib : after [0xE4#8, 0x60#8] (ax 0x1234#16) (fun t => (t.reg16 .bx, t.ip, t.io.length)) =
    some (0#16, 0x0102#16, 1) := by decide
-- Section 2.6.
theorem test_jmp_back : after [0xEB#8, 0xFE#8] base (fun t => t.ip) = some 0x0100#16 := by decide
theorem test_jmp_near_wraps : after [0xE9#8, 0xFD#8, 0xFE#8] base (fun t => t.ip) = some 0x0000#16 := by decide
theorem test_jmp_register : after [0xFF#8, 0xE3#8] (base.setReg16 .bx 0x0104#16) (fun t => t.ip) = some 0x0104#16 := by decide
theorem test_jmp_far : after [0xEA#8, 0x00#8, 0x10#8, 0x00#8, 0xF0#8] base (fun t => (t.seg .cs, t.ip)) = some (0xF000#16, 0x1000#16) := by decide
theorem test_call_near : after [0xE8#8, 0x01#8, 0x00#8] base (fun t => (t.read16 0x1000#16 0xFFFC#16, t.reg16 .sp, t.ip)) = some (0x0103#16, 0xFFFC#16, 0x0104#16) := by decide
theorem test_call_reads_target_first : after [0xFF#8, 0x17#8] ((base.setReg16 .bx 0xFFFC#16).write16 0x1000#16 0xFFFC#16 0x0103#16) (fun t => (t.read16 0x1000#16 0xFFFC#16, t.reg16 .sp, t.ip)) = some (0x0102#16, 0xFFFC#16, 0x0103#16) := by decide
theorem test_call_far : after [0x9A#8, 0x08#8, 0x01#8, 0x00#8, 0x10#8] base (fun t => (t.read16 0x1000#16 0xFFFC#16, t.read16 0x1000#16 0xFFFA#16, t.reg16 .sp, t.ip)) = some (0x1000#16, 0x0105#16, 0xFFFA#16, 0x0108#16) := by decide
theorem test_ret : after [0xC3#8] ((base.setReg16 .sp 0xFFFC#16).write16 0x1000#16 0xFFFC#16 0x0103#16) (fun t => (t.ip, t.reg16 .sp)) = some (0x0103#16, 0xFFFE#16) := by decide
theorem test_ret_iw : after [0xC2#8, 0x04#8, 0x00#8] ((base.setReg16 .sp 0x01FE#16).write16 0x1000#16 0x01FE#16 0x0103#16) (fun t => (t.ip, t.reg16 .sp)) = some (0x0103#16, 0x0204#16) := by decide
theorem test_retf : after [0xCB#8] (((base.setReg16 .sp 0xFFFA#16).write16 0x1000#16 0xFFFA#16 0x0105#16).write16 0x1000#16 0xFFFC#16 0x2000#16) (fun t => (t.ip, t.seg .cs, t.reg16 .sp)) = some (0x0105#16, 0x2000#16, 0xFFFE#16) := by decide
theorem test_loop_wraps : after [0xE2#8, 0x00#8] base (fun t => (t.reg16 .cx, t.ip)) = some (0xFFFF#16, 0x0102#16) := by decide
theorem test_loop_ends : after [0xE2#8, 0x10#8] (base.setReg16 .cx 0x0001#16) (fun t => (t.reg16 .cx, t.ip)) = some (0x0000#16, 0x0102#16) := by decide
theorem test_loope_taken : after [0xE1#8, 0x10#8] (image 0xF042#16 (base.setReg16 .cx 0x0002#16)) (fun t => (t.reg16 .cx, t.ip)) = some (0x0001#16, 0x0112#16) := by decide
theorem test_loope_not_taken : after [0xE1#8, 0x10#8] (base.setReg16 .cx 0x0002#16) (fun t => (t.reg16 .cx, t.ip)) = some (0x0001#16, 0x0102#16) := by decide
theorem test_loopne_not_taken : after [0xE0#8, 0x10#8] (image 0xF042#16 (base.setReg16 .cx 0x0002#16)) (fun t => (t.reg16 .cx, t.ip)) = some (0x0001#16, 0x0102#16) := by decide
theorem test_jcxz : after [0xE3#8, 0x10#8] base (fun t => (t.reg16 .cx, t.ip)) = some (0x0000#16, 0x0112#16) := by decide

/-- Which of the sixteen conditional jumps (in the order of their opcodes) are taken after CMP AX,BX. -/
def taken (a b : Word) : List Bool :=
  (List.range 16).map fun k =>
    match step ((axbx a b).storeCode 0x0100#16 [0x39#8, 0xD8#8, BitVec.ofNat 8 (0x70 + k), 0x10#8]) with
    | .next t =>
      match step t with
      | .next u => u.ip == 0x0114#16
      | .fault _ => false
      | .refused _ => false
    | .fault _ => false
    | .refused _ => false

theorem test_conditional_jumps_1 : taken 0x0005#16 0x0005#16 =
    [false, true, false, true, true, false, true, false,
     false, true, true, false, false, true, true, false] := by decide
theorem test_conditional_jumps_2 : taken 0x0003#16 0x0005#16 =
    [false, true, true, false, false, true, true, false,
     true, false, false, true, true, false, true, false] := by decide
theorem test_conditional_jumps_3 : taken 0x0005#16 0x0003#16 =
    [false, true, false, true, false, true, false, true,
     false, true, false, true, false, true, false, true] := by decide
theorem test_conditional_jumps_4 : taken 0x8000#16 0x0001#16 =
    [true, false, false, true, false, true, false, true,
     false, true, true, false, true, false, true, false] := by decide
theorem test_conditional_jumps_5 : taken 0x0001#16 0x8000#16 =
    [true, false, true, false, false, true, true, false,
     true, false, false, true, false, true, false, true] := by decide
theorem test_conditional_jumps_6 : taken 0x7FFF#16 0xFFFF#16 =
    [true, false, true, false, false, true, true, false,
     true, false, true, false, false, true, false, true] := by decide
theorem test_int3 : after [0xCC#8] ((base.write8 0x0000#16 0x000D#16 0x10#8).write8 0x0000#16 0x000F#16 0xF0#8) (fun t => (t.read16 0x1000#16 0xFFF8#16, t.ip, t.seg .cs)) = some (0x0101#16, 0x1000#16, 0xF000#16) := by decide
theorem test_int_ib : after [0xCD#8, 0x21#8] (image 0xF202#16 (((base.write16 0x0000#16 0x0084#16 0x1000#16).write16 0x0000#16 0x0086#16 0xF000#16).setReg16 .sp 0x0200#16)) (fun t => (t.read16 0x1000#16 0x01FE#16, t.read16 0x1000#16 0x01FC#16, t.read16 0x1000#16 0x01FA#16, t.reg16 .sp, t.flags.image, t.seg .cs, t.ip)) = some (0xF202#16, 0x1000#16, 0x0102#16, 0x01FA#16, 0xF002#16, 0xF000#16, 0x1000#16) := by decide
theorem test_into_raises : after [0xCE#8] (image 0xF802#16 base) (fun t => (t.read16 0x1000#16 0xFFFC#16, t.read16 0x1000#16 0xFFF8#16)) = some (0xF802#16, 0x0101#16) := by decide
theorem test_into_does_nothing : after [0xCE#8] base (fun t => (t.reg16 .sp, t.ip)) = some (0xFFFE#16, 0x0101#16) := by decide
theorem test_iret : after [0xCF#8] ((((base.setReg16 .sp 0xFFF8#16).write16 0x1000#16 0xFFF8#16 0x0102#16).write16 0x1000#16 0xFFFA#16 0x2000#16).write16 0x1000#16 0xFFFC#16 0xF202#16) (fun t => (t.ip, t.seg .cs, t.flags.image, t.reg16 .sp)) = some (0x0102#16, 0x2000#16, 0xF202#16, 0xFFFE#16) := by decide
-- Section 2.7.
theorem test_movsw_down : after [0xA5#8] (image 0xF402#16 (((base.setReg16 .si 0x0200#16).setReg16 .di 0x0300#16).write16 0x1000#16 0x0200#16 0x1234#16)) (fun t => (t.read16 0x1000#16 0x0300#16, t.reg16 .si, t.reg16 .di)) = some (0x1234#16, 0x01FE#16, 0x02FE#16) := by decide
theorem test_movsb_wraps : after [0xA4#8] ((((base.setReg16 .si 0xFFFF#16).setReg16 .di 0xFFFF#16).setSeg .es 0x2000#16).write8 0x1000#16 0xFFFF#16 0x5A#8) (fun t => (t.read8 0x2000#16 0xFFFF#16, t.reg16 .si, t.reg16 .di)) = some (0x5A#8, 0x0000#16, 0x0000#16) := by decide
theorem test_lodsb_override : after [0x26#8, 0xAC#8] ((((base.setReg16 .si 0x0010#16).setSeg .es 0x2000#16).write8 0x2000#16 0x0010#16 0x77#8).write8 0x1000#16 0x0010#16 0x11#8) (fun t => (t.reg8 .al, t.reg16 .si)) = some (0x77#8, 0x0011#16) := by decide
theorem test_rep_movsb_cx_0 : after [0xF3#8, 0xA4#8] ((base.setReg16 .si 0x0005#16).setReg16 .di 0x0006#16) (fun t => (t.reg16 .si, t.reg16 .di, t.reg16 .cx, t.ip)) = some (0x0005#16, 0x0006#16, 0x0000#16, 0x0102#16) := by decide
theorem test_rep_stosw : after [0xF3#8, 0xAB#8] (((base.setReg16 .ax 0xABCD#16).setReg16 .di 0x0300#16).setReg16 .cx 0x0003#16) (fun t => (t.read16 0x1000#16 0x0300#16, t.read16 0x1000#16 0x0304#16, t.read8 0x1000#16 0x0306#16, t.reg16 .di, t.reg16 .cx)) = some (0xABCD#16, 0xABCD#16, 0x00#8, 0x0306#16, 0x0000#16) := by decide
theorem test_rep_movsb_overlaps : after [0xF3#8, 0xA4#8] ((((((((base.setReg16 .si 0x0200#16).setReg16 .di 0x0201#16).setReg16 .cx 0x0004#16).write8 0x1000#16 0x0200#16 0xAA#8).write8 0x1000#16 0x0201#16 0x01#8).write8 0x1000#16 0x0202#16 0x02#8).write8 0x1000#16 0x0203#16 0x03#8).write8 0x1000#16 0x0204#16 0x04#8) (fun t => ((List.range 5).map (fun k => t.read8 0x1000#16 (0x0200#16 + BitVec.ofNat 16 k)), t.reg16 .si, t.reg16 .di, t.reg16 .cx)) = some (List.replicate 5 0xAA#8, 0x0204#16, 0x0205#16, 0x0000#16) := by decide
theorem test_repe_cmpsb_stops : after [0xF3#8, 0xA6#8] (((((((((((base.setReg16 .si 0x0200#16).setReg16 .di 0x0300#16).setReg16 .cx 0x0004#16).write8 0x1000#16 0x0200#16 0x41#8).write8 0x1000#16 0x0201#16 0x42#8).write8 0x1000#16 0x0202#16 0x43#8).write8 0x1000#16 0x0203#16 0x44#8).write8 0x1000#16 0x0300#16 0x41#8).write8 0x1000#16 0x0301#16 0x42#8).write8 0x1000#16 0x0302#16 0x58#8).write8 0x1000#16 0x0303#16 0x44#8) (fun t => (t.reg16 .cx, t.reg16 .si, t.reg16 .di, t.flags.image)) = some (0x0001#16, 0x0203#16, 0x0303#16, 0xF097#16) := by decide
theorem test_repe_cmpsb_cx_0 : after [0xF3#8, 0xA6#8] base (fun t => (t.flags.ZF, t.reg16 .si)) = some (false, 0x0000#16) := by decide
theorem test_repne_scasb : after [0xF2#8, 0xAE#8] ((((base.setReg16 .di 0x0300#16).setReg16 .cx 0xFFFF#16).write8 0x1000#16 0x0300#16 0x68#8).write8 0x1000#16 0x0301#16 0x69#8) (fun t => (t.reg16 .cx, t.reg16 .di, t.flags.image)) = some (0xFFFC#16, 0x0303#16, 0xF046#16) := by decide
-- REP NOP: the repeat is ignored (R332).
theorem test_rep_nop : after [0xF3#8, 0x90#8] (base.setReg16 .cx 0x0003#16) (fun t => (t.reg16 .cx, t.ip)) = some (0x0003#16, 0x0102#16) := by decide
-- Section 2.8.
theorem test_stc : after [0xF9#8] base (fun t => t.flags.image) = some 0xF003#16 := by decide
theorem test_clc : after [0xF8#8] (image 0xF003#16 base) (fun t => t.flags.image) = some 0xF002#16 := by decide
theorem test_cmc : after [0xF5#8] (image 0xF003#16 base) (fun t => t.flags.image) = some 0xF002#16 := by decide
theorem test_std : after [0xFD#8] base (fun t => t.flags.image) = some 0xF402#16 := by decide
theorem test_cld : after [0xFC#8] (image 0xF402#16 base) (fun t => t.flags.image) = some 0xF002#16 := by decide
theorem test_sti : after [0xFB#8] base (fun t => t.flags.image) = some 0xF202#16 := by decide
theorem test_cli : after [0xFA#8] (image 0xF202#16 base) (fun t => t.flags.image) = some 0xF002#16 := by decide
theorem test_hlt : after [0xF4#8] base (fun t => (t.halted, t.ip)) = some (true, 0x0101#16) := by decide
theorem test_nop_only_advances : step (base.storeCode 0x0100#16 [0x90#8]) =
    .next ((base.storeCode 0x0100#16 [0x90#8]).setIp 0x0101#16) := by rfl
theorem test_wait_only_advances : step (base.storeCode 0x0100#16 [0x9B#8]) =
    .next ((base.storeCode 0x0100#16 [0x9B#8]).setIp 0x0101#16) := by rfl
theorem test_esc_only_advances : step (base.storeCode 0x0100#16 [0xD8#8, 0x06#8, 0x00#8, 0x02#8]) =
    .next ((base.storeCode 0x0100#16 [0xD8#8, 0x06#8, 0x00#8, 0x02#8]).setIp 0x0104#16) := by rfl
theorem test_lock_nop_only_advances : step (base.storeCode 0x0100#16 [0xF0#8, 0x90#8]) =
    .next ((base.storeCode 0x0100#16 [0xF0#8, 0x90#8]).setIp 0x0102#16) := by rfl
theorem test_invalid_raises : after [0x0F#8] base (fun t => (t.read16 0x1000#16 0xFFFC#16, t.read16 0x1000#16 0xFFFA#16, t.read16 0x1000#16 0xFFF8#16, t.reg16 .sp)) = some (0xF002#16, 0x1000#16, 0x0101#16, 0xFFF8#16) := by decide
theorem test_invalid_fifteen : after [0x26#8, 0x26#8, 0x26#8, 0x26#8, 0x26#8, 0x26#8, 0x26#8, 0x26#8, 0x26#8, 0x26#8, 0x26#8, 0x26#8, 0x26#8, 0x26#8, 0x26#8] base (fun t => t.read16 0x1000#16 0xFFF8#16) = some 0x010F#16 := by decide
-- Section 2.9: the 80186 additions.
theorem test_pusha : after [0x60#8] ((((((((base186.setReg16 .ax 0x0001#16).setReg16 .cx 0x0002#16).setReg16 .dx 0x0003#16).setReg16 .bx 0x0004#16).setReg16 .sp 0x0100#16).setReg16 .bp 0x0006#16).setReg16 .si 0x0007#16).setReg16 .di 0x0008#16) (fun t => ((List.range 8).map (fun k => t.read16 0x1000#16 (0x00F0#16 + BitVec.ofNat 16 (2 * k))), t.reg16 .sp)) = some ([0x0008#16, 0x0007#16, 0x0006#16, 0x0100#16, 0x0004#16, 0x0003#16, 0x0002#16, 0x0001#16], 0x00F0#16) := by decide
theorem test_popa : after [0x61#8] (((((((((base186.setReg16 .sp 0x00F0#16).write16 0x1000#16 0x00F0#16 0x0008#16).write16 0x1000#16 0x00F2#16 0x0007#16).write16 0x1000#16 0x00F4#16 0x0006#16).write16 0x1000#16 0x00F6#16 0x0100#16).write16 0x1000#16 0x00F8#16 0x0004#16).write16 0x1000#16 0x00FA#16 0x0003#16).write16 0x1000#16 0x00FC#16 0x0002#16).write16 0x1000#16 0x00FE#16 0x0001#16) (fun t => t.regs) = some (Regs.mk 0x0001#16 0x0002#16 0x0003#16 0x0004#16 0x0100#16 0x0006#16 0x0007#16 0x0008#16) := by decide
theorem test_push_iw : after [0x68#8, 0x34#8, 0x12#8] base186 (fun t => (t.read16 0x1000#16 0xFFFC#16, t.reg16 .sp)) = some (0x1234#16, 0xFFFC#16) := by decide
theorem test_push_ib_signed : after [0x6A#8, 0xFF#8] base186 (fun t => t.read16 0x1000#16 0xFFFC#16) = some 0xFFFF#16 := by decide
theorem test_imul_ib_fits : after [0x6B#8, 0xC3#8, 0x0A#8] (base186.setReg16 .bx 0x0007#16) (fun t => (t.reg16 .ax, t.flags.CF, t.flags.OF)) = some (0x0046#16, false, false) := by decide
theorem test_imul_ib : after [0x6B#8, 0xC3#8, 0x0A#8] (base186.setReg16 .bx 0x4000#16) (fun t => (t.reg16 .ax, t.flags.CF, t.flags.OF)) = some (0x8000#16, true, true) := by decide
theorem test_shl_ew_ib : after [0xC1#8, 0xE0#8, 0x04#8] (base186.setReg16 .ax 0x0123#16) (fun t => (t.reg16 .ax, t.flags.CF)) = some (0x1230#16, false) := by decide
theorem test_enter : after [0xC8#8, 0x08#8, 0x00#8, 0x00#8] ((base186.setReg16 .sp 0x0100#16).setReg16 .bp 0x0200#16) (fun t => (t.read16 0x1000#16 0x00FE#16, t.reg16 .bp, t.reg16 .sp)) = some (0x0200#16, 0x00FE#16, 0x00F6#16) := by decide
theorem test_leave : after [0xC9#8] (((base186.setReg16 .sp 0x00F6#16).setReg16 .bp 0x00FE#16).write16 0x1000#16 0x00FE#16 0x0200#16) (fun t => (t.reg16 .bp, t.reg16 .sp)) = some (0x0200#16, 0x0100#16) := by decide
theorem test_bound_inside : after [0x62#8, 0x07#8] (((base186.setReg16 .bx 0x0400#16).setReg16 .ax 0x0005#16).write16 0x1000#16 0x0402#16 0x0009#16) (fun t => (t.reg16 .sp, t.ip)) = some (0xFFFE#16, 0x0102#16) := by decide
theorem test_bound_outside : after [0x62#8, 0x07#8] (((base186.setReg16 .bx 0x0400#16).setReg16 .ax 0x000A#16).write16 0x1000#16 0x0402#16 0x0009#16) (fun t => (t.reg16 .sp, t.read16 0x1000#16 0xFFF8#16)) = some (0xFFF8#16, 0x0102#16) := by decide
theorem test_sixty_without_186 : after [0x60#8] base (fun t => (t.reg16 .sp, t.read16 0x1000#16 0xFFF8#16)) = some (0xFFF8#16, 0x0101#16) := by decide

-- Section 2.10.
theorem test_phys : phys 0x1000#16 0x0100#16 = 0x10100 ∧ phys 0xFFFF#16 0x0010#16 = 0 ∧
    phys 0xFFFF#16 0xFFFF#16 = 0x0FFEF ∧ phys 0x1010#16 0#16 = 0x10100 := by decide
theorem test_word_at_top : State.read16 (base.write8 0xFFFF#16 0x000F#16 0x34#8 |>.write8 0#16 0#16 0x12#8) 0xFFFF#16 0x000F#16 =
    0x1234#16 := by decide
theorem test_fetch_wraps : after [0xB8#8, 0x34#8, 0x12#8] (base.setIp 0xFFFF#16) (fun t => (t.reg16 .ax, t.ip)) =
    some (0x1234#16, 0x0002#16) := by decide
-- Program P7: the step sees the byte that the step before it stored.
theorem test_store_is_fetched : (after [0xC6#8, 0x06#8, 0x06#8, 0x01#8, 0x42#8, 0xB0#8, 0x00#8] base
    (fun t => match step t with
      | .next u => u.reg8 .al
      | .fault _ => 0#8
      | .refused _ => 0#8)) = some 0x42#8 := by decide
-- `register(0x21, 0xF000, 0x1000, h)` of the worked example S14; program P6 with it: the host's own answer is free, the
-- frame around it is not.
theorem test_register : ((List.range 4).map ((base.register 0x21#8 0xF000#16 0x1000#16 true).mem.read <| 0x84 + ·)) =
    [0x00#8, 0x10#8, 0x00#8, 0xF0#8] ∧ (base.register 0x21#8 0xF000#16 0x1000#16 true).hasHandler 0x21#8 = true := by decide
theorem test_reset_flags : State.reset.flags.image = 0xF002#16 := by decide
-- A loaded image stands at offset 0100 of its segment (S13).
theorem test_load : (State.loadCom State.reset 0x1000#16 [0xF4#8]).map (fun s => (s.mem, s.ip, s.seg .cs, s.seg .ss)) =
    some ([⟨0x10100, 0xF4#8⟩], 0x0100#16, 0x1000#16, 0x1000#16) := by decide


/-! ## Witnesses: concrete data that meet the hypotheses of each statement, clause by clause, at boundary values -/

/-- A state that lists a byte. -/
def listed : State := base.write8 0x1000#16 0x0300#16 0x5A#8

/-- A state in the middle of an instruction with a repeat. -/
def repeating (r : Rep) (n : Word) : State := (base.setReg16 .cx n).setPfx { Pfx.none with rep := some r }

-- DecodeInvertsEncode: the longest instruction of R109, one with a direct offset, and the run that is Invalid.
theorem witness_DecodeInvertsEncode :
    Decoded.wf false ⟨List.replicate 14 .es, .movEwIw (.mem (.disp16 .si 0x1000#16)) 0xABCD#16⟩ = true ∧
    Decoded.wf true ⟨[.lock, .rep], .enterIwIb 0xFFFF#16 0xFF#8⟩ = true ∧
    Decoded.wf false ⟨[], .invalid (List.replicate 15 0xF0#8)⟩ = true := by decide
-- DecodeAlwaysAnswers: exactly twenty bytes.
theorem witness_DecodeAlwaysAnswers : 20 ≤ (List.replicate 20 0x26#8).length := by decide
-- InvalidEncodings: one per clause, the runs of R94 at their longest.
theorem witness_InvalidEncodings :
    decode false [0x60#8] = .ok (⟨[], .invalid [0x60#8]⟩, []) ∧
    ((List.replicate 14 Prefix.es).length ≤ 14 ∧ invalidOpcode false 0x60#8 = true ∧ invalidOpcode true 0x0F#8 = true) ∧
    ((List.replicate 14 Prefix.rep).length ≤ 14 ∧ invalidModRM false 0x8E#8 0xC8#8 = true ∧ invalidModRM true 0x62#8 0xC0#8 = true) ∧
    (List.replicate 15 Prefix.lock).length = 15 := by decide
-- DecodeReadsOnlyItsBytes: the second state differs in registers and in the byte after the instruction.
theorem witness_DecodeReadsOnlyItsBytes :
    let s := base.storeCode 0x0100#16 [0xB8#8, 0x34#8, 0x12#8, 0x90#8]
    let t := (base.storeCode 0x0100#16 [0xB8#8, 0x34#8, 0x12#8, 0xF4#8]).setReg16 .ax 7#16
    s.decodeNext = .ok (⟨[], .movR16Iw .ax 0x1234#16⟩, 3) ∧ t.isa186 = s.isa186 ∧
    ∀ k < 3, t.mem.read (phys (t.seg .cs) (t.ip + BitVec.ofNat 16 k)) =
      s.mem.read (phys (s.seg .cs) (s.ip + BitVec.ofNat 16 k)) := by decide
-- PrefixBytesRecorded.
theorem witness_PrefixBytesRecorded : base.pfx = Pfx.none := by decide
-- StepRunsDecodedInstruction, OtherInstructionsAdvance: a running machine at a REP MOVSW whose IP wraps.
theorem witness_StepRunsDecodedInstruction :
    let s := (base.setIp 0xFFFF#16).storeCode 0xFFFF#16 [0x26#8, 0xF3#8, 0xA5#8]
    s.halted = false ∧ ∃ rest, decode s.isa186 s.fetch = .ok (⟨[.es, .rep], .movsw⟩, rest) := ⟨rfl, _, rfl⟩
theorem witness_OtherInstructionsAdvance :
    let s := (base.setIp 0xFFFF#16).storeCode 0xFFFF#16 [0x26#8, 0xF3#8, 0xA5#8]
    s.halted = false ∧ (∃ rest, decode s.isa186 s.fetch = .ok (⟨[.es, .rep], .movsw⟩, rest)) ∧
    Instr.jumpsNear .movsw = false ∧ Instr.loadsCs .movsw = false ∧ Instr.mayRaise .movsw = false ∧
    ∃ t, step s = .next t := ⟨rfl, ⟨_, rfl⟩, rfl, rfl, rfl, _, rfl⟩
-- StepStopsOnlyWhenHalted: both clauses.
theorem witness_StepStopsOnlyWhenHalted : { base with halted := true }.halted = true ∧ base.halted = false := by decide
-- ResetMeetsInv and MemoryReadsLastWrite: a well-formed memory that is not empty.
theorem witness_ResetMeetsInv : listed.mem.wf = true ∧ listed.mem ≠ [] := by decide
theorem witness_MemoryReadsLastWrite : listed.mem.wf = true ∧ ((listed.write16 0xFFFF#16 0x000F#16 0x1234#16).mem.wf = true) := by
  decide
-- StepKeepsInv, StepKeepsParameters: a step that stores, and one that goes through a host handler.
theorem witness_StepKeepsInv :
    State.Inv (listed.storeCode 0x0100#16 [0xF3#8, 0xAA#8]) ∧ ∃ t, step (listed.storeCode 0x0100#16 [0xF3#8, 0xAA#8]) = .next t :=
  ⟨by unfold State.Inv; decide, _, rfl⟩
theorem witness_StepKeepsParameters :
    let s := (base.register 0x21#8 0xF000#16 0#16 true).storeCode 0x0100#16 [0xCD#8, 0x21#8]
    s.hasHandler 0x21#8 = true ∧ ∃ t, step s = .next t := ⟨rfl, _, rfl⟩
-- OnlyHltHalts, ControlFlagWriters, SegmentRegisterWriters: HLT, STD and a raising DIV, far jump and LES; no handler.
theorem witness_OnlyHltHalts : base.handler = 0#256 ∧ (∃ t, exec .hlt base = .next t) ∧ ∃ t, exec .nop base = .next t :=
  ⟨rfl, ⟨_, rfl⟩, _, rfl⟩
theorem witness_ControlFlagWriters : base.handler = 0#256 ∧ Instr.std ≠ .popf ∧ Instr.std ≠ .iret ∧
    (∃ t, exec .std base = .next t) ∧ Instr.divEb (.reg .bl) ≠ .cli ∧ ∃ t, exec (.divEb (.reg .bl)) base = .next t :=
  ⟨rfl, by decide, by decide, ⟨_, rfl⟩, by decide, _, rfl⟩
theorem witness_SegmentRegisterWriters : base.handler = 0#256 ∧ (∃ t, exec (.jmpFar 0#16 0xF000#16) base = .next t) ∧
    ∃ t, exec (.lesGwM .di (.direct 0x0200#16)) base = .next t := ⟨rfl, ⟨_, rfl⟩, _, rfl⟩
-- RepeatAndLockIgnored: another repeat on MOV, LOCK on a string.
theorem witness_RepeatAndLockIgnored :
    (base.handler = 0#256 ∧ Instr.isPrefix .cbw = false ∧ (⟨none, some .rep, true⟩ : Pfx).seg = base.pfx.seg ∧
      Instr.isString .cbw = false ∧ ∃ t, exec .cbw base = .next t) ∧
    (Instr.isPrefix .movsb = false ∧ (⟨none, none, true⟩ : Pfx).rep = base.pfx.rep ∧ ∃ t, exec .movsb base = .next t) :=
  ⟨⟨rfl, rfl, rfl, rfl, _, rfl⟩, rfl, rfl, _, rfl⟩
-- PhysicalAddresses: the last sum below 2^20 and the first that wraps; they name different bytes.
theorem witness_PhysicalAddresses :
    (0xFFFF#16 : Word).toNat * 16 + (0x000F#16 : Word).toNat < 0x100000 ∧ phys 0xFFFF#16 0x000F#16 = 0xFFFFF ∧
    0x100000 ≤ (0xFFFF#16 : Word).toNat * 16 + (0x0010#16 : Word).toNat ∧ phys 0xFFFF#16 0x0010#16 = 0 := by decide
-- EffectiveAddresses: an override, and none.
theorem witness_EffectiveAddresses : ({ Pfx.none with seg := some .es } : Pfx).seg = some .es ∧ base.pfx.seg = none := by decide
-- UnsignedDivide: for each width the last quotient that fits and the first that does not.
theorem witness_UnsignedDivide :
    ((axbx 0x01FF#16 2#16).reg16 .ax).toNat < 0x100 * ((axbx 0x01FF#16 2#16).readEb (.reg .bl)).toNat ∧
    (((axbx 0xFFFF#16 2#16).setReg16 .dx 1#16).reg16 .dx).toNat < (((axbx 0xFFFF#16 2#16).setReg16 .dx 1#16).readEw (.reg .bx)).toNat ∧
    0x100 * ((axbx 0x0200#16 2#16).readEb (.reg .bl)).toNat ≤ ((axbx 0x0200#16 2#16).reg16 .ax).toNat ∧
    (((axbx 0#16 2#16).setReg16 .dx 2#16).readEw (.reg .bx)).toNat ≤ (((axbx 0#16 2#16).setReg16 .dx 2#16).reg16 .dx).toNat := by
  decide
-- The dividend and divisor of the signed cases.
def bytes (s : State) : Int × Int := ((s.reg16 .ax).toInt, (s.readEb (.reg .bl)).toInt)
def words (s : State) : Int × Int := ((s.reg16 .dx).toInt * 0x10000 + (s.reg16 .ax).toNat, (s.readEw (.reg .bx)).toInt)
-- SignedDivide: quotients -127 and 127, -32767; then -128 and 128, 32768 and a divisor of 0.
theorem witness_SignedDivide :
    (bytes (axbx 0xFF81#16 1#16) = (-127, 1) ∧ ((-127 : Int).tdiv 1).natAbs ≤ 127) ∧
    (bytes (axbx 0xFF01#16 0x00FE#16) = (-255, -2) ∧ ((-255 : Int).tdiv (-2)).natAbs ≤ 127) ∧
    (words ((axbx 0x8001#16 1#16).setReg16 .dx 0xFFFF#16) = (-32767, 1) ∧ ((-32767 : Int).tdiv 1).natAbs ≤ 32767) ∧
    (bytes (axbx 0xFF80#16 1#16) = (-128, 1) ∧ 127 < ((-128 : Int).tdiv 1).natAbs) ∧
    (bytes (axbx 0x0100#16 2#16) = (256, 2) ∧ 127 < ((256 : Int).tdiv 2).natAbs) ∧ (bytes base = (0, 0)) ∧
    (words ((axbx 0x8000#16 1#16).setReg16 .dx 0#16) = (32768, 1) ∧ 32767 < ((32768 : Int).tdiv 1).natAbs) ∧
    words base = (0, 0) := by decide
-- AsciiBaseConversion.
theorem witness_AsciiBaseConversion : (1#8 : Byte).toNat ≠ 0 ∧ (0xFF#8 : Byte).toNat ≠ 0 := by decide
-- DecimalAndAsciiAdjust: low digit 9 without AF and A; 99H without CF and 9AH.
theorem witness_DecimalAndAsciiAdjust :
    (¬(9 < ((ax 0x99#16).reg8 .al).toNat % 16 ∨ (ax 0x99#16).flags.AF = true) ∧ 9 < ((ax 0x9A#16).reg8 .al).toNat % 16) ∧
    ¬(0x99 < ((ax 0x99#16).reg8 .al).toNat ∨ (ax 0x99#16).flags.CF = true) ∧ 0x99 < ((ax 0x9A#16).reg8 .al).toNat := by decide
-- The shift and rotate families: counts 0, 1 and 255, and 32 on both machines.
theorem witness_ShiftForms : base.countOf 0#8 = 0 ∧ base.countOf 1#8 = 1 ∧ base.countOf 0xFF#8 = 255 ∧ base.countOf 32#8 = 32 := by
  decide
theorem witness_RotateForms : base186.countOf 0#8 = 0 ∧ base186.countOf 32#8 = 0 ∧ base186.countOf 33#8 = 1 := by decide
theorem witness_RotateThroughCarryForms : base.countOf 9#8 = 9 ∧ (image 0xF003#16 base).flags.CF = true := by decide
-- PushForms, PopForms: a register that is not SP, a word operand that is not SP.
theorem witness_PushForms : Reg16.ax ≠ .sp ∧ (.reg .ax : Ew) ≠ .reg .sp ∧ (.mem (.base .bx) : Ew) ≠ .reg .sp := by decide
theorem witness_PopForms : Reg16.di ≠ .sp := by decide
-- ConditionalJumps: each condition holds in one state and fails in another.
theorem witness_ConditionalJumps :
    let f := (image 0xF8D7#16 base).flags
    let g := base.flags
    let h := (image 0xF802#16 base).flags
    (f.OF = true ∧ g.OF = false) ∧ (f.CF = true ∧ g.CF = false) ∧ (f.ZF = true ∧ g.ZF = false) ∧
    ((f.CF = true ∨ f.ZF = true) ∧ g.CF = false ∧ g.ZF = false) ∧ (f.SF = true ∧ g.SF = false) ∧
    (f.PF = true ∧ g.PF = false) ∧ (h.SF ≠ h.OF ∧ g.SF = g.OF) ∧
    ((h.ZF = true ∨ h.SF ≠ h.OF) ∧ g.ZF = false ∧ g.SF = g.OF) := by decide
-- LoopForms: CX = 1 (not taken), CX = 0 (taken, CX becomes FFFF), ZF both ways, JCXZ both ways.
theorem witness_LoopForms :
    (∃ t, exec (.loop 0x10#8) (base.setReg16 .cx 1#16) = .next t ∧ t.reg16 .cx = 0#16) ∧
    (∃ t, exec (.loop 0x10#8) base = .next t ∧ t.reg16 .cx ≠ 0#16) ∧
    (base.flags.ZF = false ∧ (image 0xF042#16 base).flags.ZF = true) ∧
    base.reg16 .cx = 0#16 ∧ (base.setReg16 .cx 1#16).reg16 .cx ≠ 0#16 :=
  ⟨⟨_, rfl, by decide⟩, ⟨_, rfl, by decide⟩, by decide⟩
-- SoftwareInterrupts: a vector with a handler and one without, at both ends of the table; OF both ways.
theorem witness_SoftwareInterrupts :
    (base.register 0xFF#8 0#16 0#16 true).handler.getLsbD (0xFF#8 : Byte).toNat = true ∧
    (base.register 0xFF#8 0#16 0#16 true).handler.getLsbD (0#8 : Byte).toNat = false ∧
    base.flags.OF = false ∧ (image 0xF802#16 base).flags.OF = true := by decide
-- HostOperations: register for another vector, and un-register.
theorem witness_HostOperations : (base.register 3#8 0#16 0#16 true).hasHandler 4#8 = false ∧
    ((base.register 3#8 0#16 0#16 true).register 3#8 0#16 0#16 false).hasHandler 3#8 = false ∧ SReg.es ≠ .cs := by decide
-- StringElements.
theorem witness_StringElements : base.pfx.rep = none := by decide
-- RepeatedStringSteps, RepeatedStringsFinish: CX 0 and not 0; the exit test met and not met.
theorem witness_RepeatedStringSteps :
    Instr.isString .cmpsb = true ∧ (repeating .rep 2#16).pfx.rep = some .rep ∧ (repeating .rep 0#16).reg16 .cx = 0#16 ∧
    (repeating .rep 2#16).reg16 .cx ≠ 0#16 ∧ Instr.comparesStrings .cmpsb = true ∧
    (∃ u, exec .cmpsb ((repeating .rep 2#16).setPfx Pfx.none) = .next u ∧ u.flags.ZF = true ∧
      u.flags.ZF = decide (Rep.repne = .repne) ∧ ¬u.flags.ZF = decide (Rep.rep = .repne)) :=
  ⟨rfl, rfl, rfl, by decide, rfl, _, rfl, by decide, by decide, by decide⟩
theorem witness_RepeatedStringsFinish : (repeating .repne 0xFFFF#16).pfx.rep = some .repne ∧
    (repeating .rep 0#16).pfx.rep = some .rep ∧ (repeating .rep 0#16).reg16 .cx = 0#16 ∧
    (Instr.isString .cmpsw = true ∧ Instr.stepsSi .cmpsw = true ∧ Instr.stepsDi .cmpsw = true) ∧
    Instr.isString .lodsb = true ∧ Instr.isString .stosw = true ∧
    (repeating .rep 2#16).storedElements .stosw 2 ≠ [] := by decide
-- RepeatedBlockMoves: three bytes from 0200 to 0203, which do not meet.
theorem witness_RepeatedBlockMoves :
    let s := ((repeating .rep 3#16).setReg16 .si 0x0200#16).setReg16 .di 0x0203#16
    s.pfx.rep = some .rep ∧ 2 < (s.reg16 .cx).toNat ∧
    ∀ a ∈ s.elements (s.seg .es) .di (s.reg16 .cx).toNat, a ∉ s.elements s.sourceSeg .si (s.reg16 .cx).toNat := by decide
-- FrameAndBoundForms: BOUND at both bounds and one past each; ENTER with three copied words, apart from the frame.
theorem witness_FrameAndBoundForms :
    ((0 : Int) ≤ 0 ∧ (0 : Int) ≤ 9 ∧ (9 : Int) ≤ 9 ∧ (9 : Int) < 10 ∧ (-1 : Int) < 0) ∧
    ((if (4#8 : Byte).toNat % 32 = 0 then 1 else (4#8 : Byte).toNat % 32 + 1) = 5 ∧ 1 ≤ 3 ∧ 3 < 5 - 1) ∧
    (let s := (base186.setReg16 .bp 0x0400#16).setReg16 .sp 0x0200#16
     s.HoldsWord (s.seg .ss) (s.reg16 .bp - BitVec.ofNat 16 6) 0#16 ∧
     ∀ a ∈ wordBytes (s.seg .ss) (s.reg16 .bp - BitVec.ofNat 16 6), a ∉ s.stackBytes 10) := by
  unfold State.HoldsWord; decide
theorem witness_bound_clauses :
    let at_ := fun (v : Word) => (base186.setReg16 .ax v).write16 0x1000#16 0x0002#16 9#16
    let lo := fun (s : State) => (s.read16 (s.memSeg (.base .bx)) (s.ea (.base .bx))).toInt
    let hi := fun (s : State) => (s.read16 (s.memSeg (.base .bx)) (s.ea (.base .bx) + 2#16)).toInt
    (lo (at_ 9#16) ≤ ((at_ 9#16).reg16 .ax).toInt ∧ ((at_ 9#16).reg16 .ax).toInt ≤ hi (at_ 9#16)) ∧
    (hi (at_ 10#16) < ((at_ 10#16).reg16 .ax).toInt) ∧ ((at_ 0xFFFF#16).reg16 .ax).toInt < lo (at_ 0xFFFF#16) := by decide
-- StackRoundTrips: the eight pairs run; PUSH SP; ENTER at level 0 and at the greatest level.
theorem witness_StackRoundTrips :
    (∃ t u, exec (.pushR16 .sp) base = .next t ∧ exec (.popR16 .bx) t = .next u ∧ Reg16.bx ≠ .sp) ∧
    (∃ t u, exec .pushf base = .next t ∧ exec .popf t = .next u) ∧
    (∃ t u, exec (.callCw 0xFFF0#16) base = .next t ∧ exec .ret t = .next u) ∧
    (∃ t u, exec (.callEw (.reg .bx)) base = .next t ∧ exec .ret t = .next u) ∧
    (∃ t u, exec (.callFar 0#16 0xF000#16) base = .next t ∧ exec .retf t = .next u) ∧
    (∃ t u, exec (.callM (.base .bx)) base = .next t ∧ exec .retf t = .next u) ∧
    (∃ t u, exec .pusha base186 = .next t ∧ exec .popa t = .next u) ∧
    (∃ t u, exec (.enterIwIb 8#16 0#8) base186 = .next t ∧ exec .leave t = .next u) ∧
    (∃ t u, exec (.enterIwIb 8#16 31#8) base186 = .next t ∧ exec .leave t = .next u) :=
  ⟨⟨_, _, rfl, rfl, by decide⟩, ⟨_, _, rfl, rfl⟩, ⟨_, _, rfl, rfl⟩, ⟨_, _, rfl, rfl⟩, ⟨_, _, rfl, rfl⟩, ⟨_, _, rfl, rfl⟩,
    ⟨_, _, rfl, rfl⟩, ⟨_, _, rfl, rfl⟩, _, _, rfl, rfl⟩
-- InterruptThenIret.
theorem witness_InterruptThenIret :
    base.handler.getLsbD (0x21#8 : Byte).toNat = false ∧ ∃ t u, exec (.intIb 0x21#8) base = .next t ∧ exec .iret t = .next u :=
  ⟨rfl, _, _, rfl, rfl⟩
-- DefaultVectorReturns: the standing stub of spec/95_test_vectors.md at F000:0000, for the last vector.
def stubbed : State := (base.write8 0xF000#16 0#16 0xCF#8).setVector 0xFF#8 0xF000#16 0#16
theorem witness_DefaultVectorReturns :
    stubbed.halted = false ∧ stubbed.handler.getLsbD (0xFF#8 : Byte).toNat = false ∧
    stubbed.mem.read (4 * (0xFF#8 : Byte).toNat) = Word.lo 0#16 ∧ stubbed.mem.read (4 * (0xFF#8 : Byte).toNat + 1) = Word.hi 0#16 ∧
    stubbed.mem.read (4 * (0xFF#8 : Byte).toNat + 2) = Word.lo 0xF000#16 ∧
    stubbed.mem.read (4 * (0xFF#8 : Byte).toNat + 3) = Word.hi 0xF000#16 ∧
    stubbed.mem.read (phys 0xF000#16 0#16) = 0xCF#8 ∧ phys 0xF000#16 0#16 ∉ stubbed.stackBytes 6 ∧
    (∀ k < 4, 4 * (0xFF#8 : Byte).toNat + k ∉ stubbed.stackBytes 6) := by decide
theorem witness_DefaultVectorReturns_runs : ∃ t u, exec (.intIb 0xFF#8) stubbed = .next t ∧ step t = .next u := ⟨_, _, rfl, rfl⟩

end Sys2Proof.Tests
end

section
namespace Sys2Proof.Machine

/-! ## What every instruction and every step answers (00_scope.md R4, R11) -/

/-- The outcome is a next state, neither a fault nor a refusal. -/
def Answers (o : Result) : Prop := ∃ t, o = .next t

theorem answers_next (s : State) : Answers (.next s) := ⟨s, rfl⟩

theorem answers_ite {c : Prop} [Decidable c] {o p : Result} (ho : Answers o) (hp : Answers p) :
    Answers (if c then o else p) := by
  split
  · exact ho
  · exact hp

theorem answers_thenDo {o : Result} {k : State → Result} (ho : Answers o) (hk : ∀ s, Answers (k s)) :
    Answers (thenDo o k) := by
  obtain ⟨s, rfl⟩ := ho
  exact hk s

/-- A division answers a next state on a zero divisor, on a quotient out of range and on a quotient in range
(R154, R155). -/
theorem answers_division {zero outside : Prop} [Decidable zero] [Decidable outside] (raised divided : State) :
    Answers (if zero then .next raised else if outside then .next raised else .next divided) :=
  answers_ite (answers_next _) (answers_ite (answers_next _) (answers_next _))

/-- Every instruction has a next state from every state: only the meanings of DIV, IDIV, AAM, BOUND and PUSH Ew
branch before they answer one. -/
theorem exec_answers (i : Instr) (s : State) : Answers (exec i s) := by
  cases i
  case divEb e => exact answers_division _ _
  case divEw e => exact answers_division _ _
  case idivEb e => exact answers_division _ _
  case idivEw e => exact answers_division _ _
  case aamIb b => exact answers_ite (answers_next _) (answers_next _)
  case boundGwM g m => exact answers_ite (answers_next _) (answers_next _)
  case pushEw e => cases e <;> exact answers_next _
  all_goals exact answers_next _

theorem execPrefixes_answers (ps : List Prefix) (s : State) : Answers (execPrefixes ps s) := by
  induction ps generalizing s with
  | nil => exact answers_next s
  | cons p ps ih => exact answers_thenDo (exec_answers p.instr s) ih

/-- The step of a machine that is not halted, by what is decoded at CS:IP (R4). -/
theorem step_of_decodeNext {s : State} {d : Decoded} {len : Nat} (hs : s.halted = false) (hd : s.decodeNext = .ok (d, len)) :
    step s = thenDo (execPrefixes d.prefixes (s.advance len)) fun s1 =>
      thenDo (exec d.op s1) fun s2 => .next s2.endInstr := by
  simp [step, hs, hd]

theorem step_of_halted {s : State} (hs : s.halted = true) : step s = .fault .halted := by
  simp [step, hs]

theorem step_answers {s : State} (hs : s.halted = false) : Answers (step s) := by
  obtain ⟨d, len, hd⟩ := fetch_decodes s
  rw [step_of_decodeNext hs hd]
  exact answers_thenDo (execPrefixes_answers _ _) fun s1 => answers_thenDo (exec_answers d.op s1) fun s2 => answers_next _

/-- Settles O8: a halted machine answers the fault; any other decodes an instruction (`fetch_decodes`), and its bytes of
R94 and its meaning each answer a next state. -/
theorem stepStopsOnlyWhenHalted : Obligations.StepStopsOnlyWhenHalted :=
  ⟨fun _ => step_of_halted, fun _ => step_answers⟩

end Sys2Proof.Machine
end

section
namespace Sys2Proof

/-! ## What is decoded is what the encoder writes (30_encoding.md R90, R93, R109)

`Spells before spell f` is the converse of the encoder's laws: whatever `f` answers, its bytes are those already read and
those that `f` consumed. The pieces of the decoder compose by `Spells.andThen`. -/

/-- Where `f` answers a value after the bytes `before`, these and the bytes that `f` consumed spell that value. -/
def Spells {α : Type} (before : List Byte) (spell : α → List Byte) (f : List Byte → Parse α) : Prop :=
  ∀ bs a rest, f bs = .ok (a, rest) → before ++ bs = spell a ++ rest

theorem Parse.andThen_eq_ok {α β : Type} {p : Parse α} {k : α → List Byte → Parse β} {b : β} {rest : List Byte}
    (h : p.andThen k = .ok (b, rest)) : ∃ a mid, p = .ok (a, mid) ∧ k a mid = .ok (b, rest) := by
  cases p with
  | error e => cases h
  | ok r => exact ⟨r.1, r.2, rfl, h⟩

section Pieces

variable {α β : Type} {before : List Byte} {spell : α → List Byte} {spellB : β → List Byte}

theorem Spells.ok {a : α} (h : spell a = before) : Spells before spell (fun bs => .ok (a, bs)) := by
  rintro bs _ rest ⟨⟩
  rw [h]

theorem Spells.andThen {f : List Byte → Parse α} {g : α → List Byte → Parse β} (hf : Spells before spell f)
    (hg : ∀ a, Spells (spell a) spellB (g a)) : Spells before spellB (fun bs => (f bs).andThen g) := by
  intro bs b rest h
  obtain ⟨a, mid, ha, hb⟩ := Parse.andThen_eq_ok h
  rw [hf bs a mid ha, hg a mid b rest hb]

theorem Spells.ite {c : Prop} [Decidable c] {f g : List Byte → Parse α} (hf : c → Spells before spell f)
    (hg : ¬c → Spells before spell g) : Spells before spell (fun bs => if c then f bs else g bs) := by
  by_cases h : c
  · simpa [h] using hf h
  · simpa [h] using hg h

theorem spells_fetch8 (before : List Byte) : Spells before (fun b => before ++ [b]) fetch8 := by
  rintro (_ | ⟨b, bs⟩) _ _ ⟨⟩
  simp

theorem spells_fetch16 (before : List Byte) : Spells before (fun w => before ++ [Word.lo w, Word.hi w]) fetch16 := by
  rintro (_ | ⟨lo, _ | ⟨hi, bs⟩⟩) _ _ ⟨⟩
  simp [Machine.Word.lo_ofBytes, Machine.Word.hi_ofBytes]

end Pieces

/-! ### The operand of a ModRM byte (R100 to R103) -/

theorem spells_decodeMem (op : Byte) {mod : BitVec 2} (reg rm : BitVec 3) (h : mod ≠ 3#2) :
    Spells [op, (ModRM.mk mod reg rm).byte] (encM reg op) (decodeMem mod rm) := by
  refine Spells.ite (fun h0 => Spells.ite (fun h6 => ?_) fun h6 => ?_) fun h0 => Spells.ite (fun h1 => ?_) fun h1 => ?_
  · subst h0 h6
    exact (spells_fetch16 _).andThen fun d => .ok rfl
  · subst h0
    exact .ok (by simp [encM, MemForm.modRM, MemForm.dispBytes])
  · subst h1
    exact (spells_fetch8 _).andThen fun d => .ok (by simp [encM, MemForm.modRM, MemForm.dispBytes])
  · have h2 : mod = 2#2 := by clear * - h h0 h1; revert mod; decide
    subst h2
    exact (spells_fetch16 _).andThen fun d => .ok (by simp [encM, MemForm.modRM, MemForm.dispBytes])

theorem spells_decodeRM {R : Type} {bits : R → BitVec 3} {ofBits : BitVec 3 → R} (hb : ∀ n, bits (ofBits n) = n)
    (op : Byte) (m : ModRM) : Spells [op, m.byte] (encE bits m.reg op) (decodeRM ofBits m) := by
  obtain ⟨mod, reg, rm⟩ := m
  refine Spells.ite (fun h => ?_) fun h => (spells_decodeMem op reg rm h).andThen fun f => .ok rfl
  obtain rfl : mod = 3#2 := h
  exact .ok (by simp [encE, hb])

theorem spells_decodeEb (op : Byte) (m : ModRM) : Spells [op, m.byte] (encE Reg8.bits m.reg op) (decodeEb m) :=
  spells_decodeRM Reg8.bits_ofBits op m

theorem spells_decodeEw (op : Byte) (m : ModRM) : Spells [op, m.byte] (encE Reg16.bits m.reg op) (decodeEw m) :=
  spells_decodeRM Reg16.bits_ofBits op m

/-! ### The operand shapes -/

section Shapes

variable {op : Byte} {m : ModRM}

theorem spells_op0 {i : Instr} (h : encode i = [op]) : Spells [op] encode (op0 i) := .ok h

theorem spells_invalid1 : Spells [op] encode (invalid1 op) := .ok rfl

theorem spells_invalid2 : Spells [op, m.byte] encode (invalid2 op m) := .ok rfl

theorem spells_opIb {mk : Byte → Instr} (h : ∀ b, encode (mk b) = [op, b]) : Spells [op] encode (opIb mk) :=
  (spells_fetch8 _).andThen fun b => .ok (h b)

theorem spells_opIw {mk : Word → Instr} (h : ∀ w, encode (mk w) = [op, Word.lo w, Word.hi w]) :
    Spells [op] encode (opIw mk) :=
  (spells_fetch16 _).andThen fun w => .ok (h w)

theorem spells_opPtr {mk : Word → Word → Instr}
    (h : ∀ off sel, encode (mk off sel) = [op, Word.lo off, Word.hi off, Word.lo sel, Word.hi sel]) :
    Spells [op] encode (opPtr mk) :=
  (spells_fetch16 _).andThen fun off => (spells_fetch16 _).andThen fun sel => .ok (h off sel)

theorem spells_opIwIb {mk : Word → Byte → Instr} (h : ∀ w b, encode (mk w b) = [op, Word.lo w, Word.hi w, b]) :
    Spells [op] encode (opIwIb mk) :=
  (spells_fetch16 _).andThen fun w => (spells_fetch8 _).andThen fun b => .ok (h w b)

theorem spells_opEb {mk : Eb → Instr} (h : ∀ e, encode (mk e) = encE Reg8.bits m.reg op e) :
    Spells [op, m.byte] encode (opEb mk m) :=
  (spells_decodeEb op m).andThen fun e => .ok (h e)

theorem spells_opEw {mk : Ew → Instr} (h : ∀ e, encode (mk e) = encE Reg16.bits m.reg op e) :
    Spells [op, m.byte] encode (opEw mk m) :=
  (spells_decodeEw op m).andThen fun e => .ok (h e)

theorem spells_opEbIb {mk : Eb → Byte → Instr} (h : ∀ e b, encode (mk e b) = encE Reg8.bits m.reg op e ++ [b]) :
    Spells [op, m.byte] encode (opEbIb mk m) :=
  (spells_decodeEb op m).andThen fun e => (spells_fetch8 _).andThen fun b => .ok (h e b)

theorem spells_opEwIb {mk : Ew → Byte → Instr} (h : ∀ e b, encode (mk e b) = encE Reg16.bits m.reg op e ++ [b]) :
    Spells [op, m.byte] encode (opEwIb mk m) :=
  (spells_decodeEw op m).andThen fun e => (spells_fetch8 _).andThen fun b => .ok (h e b)

theorem spells_opEwIw {mk : Ew → Word → Instr}
    (h : ∀ e w, encode (mk e w) = encE Reg16.bits m.reg op e ++ [Word.lo w, Word.hi w]) :
    Spells [op, m.byte] encode (opEwIw mk m) :=
  (spells_decodeEw op m).andThen fun e => (spells_fetch16 _).andThen fun w => .ok (h e w)

theorem spells_opMem {mk : MemForm → Instr} (h : ∀ f, encode (mk f) = encM m.reg op f) :
    Spells [op, m.byte] encode (opMem op mk m) :=
  .ite (fun _ => spells_invalid2) fun hm => (spells_decodeMem op m.reg m.rm hm).andThen fun f => .ok (h f)

theorem spells_modRM {g : ModRM → List Byte → Parse Instr} (hg : ∀ m, Spells [op, m.byte] encode (g m)) :
    Spells [op] encode (fun bs => (fetchModRM bs).andThen g) :=
  Spells.andThen (spell := fun m : ModRM => [op, m.byte])
    ((spells_fetch8 _).andThen fun b => .ok (by simp)) hg

theorem spells_opEbGb {mk : Eb → Reg8 → Instr} (h : ∀ e g, encode (mk e g) = encE Reg8.bits g.bits op e) :
    Spells [op] encode (opEbGb mk) :=
  spells_modRM fun m => spells_opEb fun e => by rw [h, Reg8.bits_ofBits]

theorem spells_opEwGw {mk : Ew → Reg16 → Instr} (h : ∀ e g, encode (mk e g) = encE Reg16.bits g.bits op e) :
    Spells [op] encode (opEwGw mk) :=
  spells_modRM fun m => spells_opEw fun e => by rw [h, Reg16.bits_ofBits]

theorem spells_opGbEb {mk : Reg8 → Eb → Instr} (h : ∀ g e, encode (mk g e) = encE Reg8.bits g.bits op e) :
    Spells [op] encode (opEbGb fun e g => mk g e) :=
  spells_opEbGb fun e g => h g e

theorem spells_opGwEw {mk : Reg16 → Ew → Instr} (h : ∀ g e, encode (mk g e) = encE Reg16.bits g.bits op e) :
    Spells [op] encode (opEwGw fun e g => mk g e) :=
  spells_opEwGw fun e g => h g e

theorem spells_opGwM {mk : Reg16 → MemForm → Instr} (h : ∀ g f, encode (mk g f) = encM g.bits op f) :
    Spells [op] encode (opGwM op mk) :=
  spells_modRM fun m => spells_opMem fun f => by rw [h, Reg16.bits_ofBits]

theorem spells_opEsc {n : BitVec 3} (h : opPlus 0xD8#8 n = op) : Spells [op] encode (opEsc n) :=
  spells_modRM fun _ => spells_opEw fun _ => by rw [← h]; rfl

end Shapes

theorem spells_opImulIw : Spells [0x69#8] encode opImulIw :=
  spells_modRM fun _ => spells_opEwIw fun _ _ => by rw [encode, Reg16.bits_ofBits]

theorem spells_opImulIb : Spells [0x6B#8] encode opImulIb :=
  spells_modRM fun _ => spells_opEwIb fun _ _ => by rw [encode, Reg16.bits_ofBits]

/-! ### The groups (R126): one case per `reg` field -/

/-- A ModRM byte's property, one case per `reg` field. -/
theorem forall_modRM_reg {P : ModRM → Prop} (h0 : ∀ mod rm, P ⟨mod, 0#3, rm⟩) (h1 : ∀ mod rm, P ⟨mod, 1#3, rm⟩)
    (h2 : ∀ mod rm, P ⟨mod, 2#3, rm⟩) (h3 : ∀ mod rm, P ⟨mod, 3#3, rm⟩) (h4 : ∀ mod rm, P ⟨mod, 4#3, rm⟩)
    (h5 : ∀ mod rm, P ⟨mod, 5#3, rm⟩) (h6 : ∀ mod rm, P ⟨mod, 6#3, rm⟩) (h7 : ∀ mod rm, P ⟨mod, 7#3, rm⟩) (m : ModRM) : P m := by
  obtain ⟨mod, reg, rm⟩ := m
  have hreg : reg = 0#3 ∨ reg = 1#3 ∨ reg = 2#3 ∨ reg = 3#3 ∨ reg = 4#3 ∨ reg = 5#3 ∨ reg = 6#3 ∨ reg = 7#3 := by
    clear * -; revert reg; decide
  obtain rfl | rfl | rfl | rfl | rfl | rfl | rfl | rfl := hreg
  exacts [h0 mod rm, h1 mod rm, h2 mod rm, h3 mod rm, h4 mod rm, h5 mod rm, h6 mod rm, h7 mod rm]

theorem spells_group1Eb : Spells [0x80#8] encode group1Eb := by
  refine spells_modRM ?_
  apply forall_modRM_reg <;> exact fun _ _ => spells_opEbIb fun _ _ => rfl

theorem spells_group1EwIw : Spells [0x81#8] encode group1EwIw := by
  refine spells_modRM ?_
  apply forall_modRM_reg <;> exact fun _ _ => spells_opEwIw fun _ _ => rfl

theorem spells_group1EwIb : Spells [0x83#8] encode group1EwIb := by
  refine spells_modRM ?_
  apply forall_modRM_reg <;> exact fun _ _ => spells_opEwIb fun _ _ => rfl

theorem spells_group2Eb1 : Spells [0xD0#8] encode group2Eb1 := by
  refine spells_modRM ?_
  apply forall_modRM_reg
  case h6 => exact fun _ _ => spells_invalid2
  all_goals exact fun _ _ => spells_opEb fun _ => rfl

theorem spells_group2Ew1 : Spells [0xD1#8] encode group2Ew1 := by
  refine spells_modRM ?_
  apply forall_modRM_reg
  case h6 => exact fun _ _ => spells_invalid2
  all_goals exact fun _ _ => spells_opEw fun _ => rfl

theorem spells_group2EbCl : Spells [0xD2#8] encode group2EbCl := by
  refine spells_modRM ?_
  apply forall_modRM_reg
  case h6 => exact fun _ _ => spells_invalid2
  all_goals exact fun _ _ => spells_opEb fun _ => rfl

theorem spells_group2EwCl : Spells [0xD3#8] encode group2EwCl := by
  refine spells_modRM ?_
  apply forall_modRM_reg
  case h6 => exact fun _ _ => spells_invalid2
  all_goals exact fun _ _ => spells_opEw fun _ => rfl

theorem spells_group2EbIb : Spells [0xC0#8] encode group2EbIb := by
  refine spells_modRM ?_
  apply forall_modRM_reg
  case h6 => exact fun _ _ => spells_invalid2
  all_goals exact fun _ _ => spells_opEbIb fun _ _ => rfl

theorem spells_group2EwIb : Spells [0xC1#8] encode group2EwIb := by
  refine spells_modRM ?_
  apply forall_modRM_reg
  case h6 => exact fun _ _ => spells_invalid2
  all_goals exact fun _ _ => spells_opEwIb fun _ _ => rfl

theorem spells_group3Eb : Spells [0xF6#8] encode group3Eb := by
  refine spells_modRM ?_
  apply forall_modRM_reg
  case h0 => exact fun _ _ => spells_opEbIb fun _ _ => rfl
  case h1 => exact fun _ _ => spells_invalid2
  all_goals exact fun _ _ => spells_opEb fun _ => rfl

theorem spells_group3Ew : Spells [0xF7#8] encode group3Ew := by
  refine spells_modRM ?_
  apply forall_modRM_reg
  case h0 => exact fun _ _ => spells_opEwIw fun _ _ => rfl
  case h1 => exact fun _ _ => spells_invalid2
  all_goals exact fun _ _ => spells_opEw fun _ => rfl

theorem spells_group4 : Spells [0xFE#8] encode group4 := by
  refine spells_modRM ?_
  apply forall_modRM_reg
  case h0 | h1 => exact fun _ _ => spells_opEb fun _ => rfl
  all_goals exact fun _ _ => spells_invalid2

theorem spells_group5 : Spells [0xFF#8] encode group5 := by
  refine spells_modRM ?_
  apply forall_modRM_reg
  case h3 | h5 => exact fun _ _ => spells_opMem fun _ => rfl
  case h7 => exact fun _ _ => spells_invalid2
  all_goals exact fun _ _ => spells_opEw fun _ => rfl

theorem spells_movFromSReg : Spells [0x8C#8] encode movFromSReg := by
  refine spells_modRM ?_
  apply forall_modRM_reg
  case h4 | h5 | h6 | h7 => exact fun _ _ => spells_invalid2
  all_goals exact fun _ _ => spells_opEw fun _ => rfl

theorem spells_movToSReg : Spells [0x8E#8] encode movToSReg := by
  refine spells_modRM ?_
  apply forall_modRM_reg
  case h0 | h2 | h3 => exact fun _ _ => spells_opEw fun _ => rfl
  all_goals exact fun _ _ => spells_invalid2

theorem spells_group8F : Spells [0x8F#8] encode group8F := by
  refine spells_modRM ?_
  apply forall_modRM_reg
  case h0 => exact fun _ _ => spells_opEw fun _ => rfl
  all_goals exact fun _ _ => spells_invalid2

theorem spells_groupC6 : Spells [0xC6#8] encode groupC6 := by
  refine spells_modRM ?_
  apply forall_modRM_reg
  case h0 => exact fun _ _ => spells_opEbIb fun _ _ => rfl
  all_goals exact fun _ _ => spells_invalid2

theorem spells_groupC7 : Spells [0xC7#8] encode groupC7 := by
  refine spells_modRM ?_
  apply forall_modRM_reg
  case h0 => exact fun _ _ => spells_opEwIw fun _ _ => rfl
  all_goals exact fun _ _ => spells_invalid2

/-! ### The opcode map (R110 to R125): one case per low nibble -/

/-- The opcode that the encoder writes where the decoder reads `op`: 82 is read as 80 and never written (R118). -/
def writtenOpcode (op : Byte) : Byte := if op = 0x82#8 then 0x80#8 else op

/-- A nibble's property, one case per value. -/
theorem forall_nibble {P : BitVec 4 → Prop} (h0 : P 0x0#4) (h1 : P 0x1#4) (h2 : P 0x2#4) (h3 : P 0x3#4) (h4 : P 0x4#4)
    (h5 : P 0x5#4) (h6 : P 0x6#4) (h7 : P 0x7#4) (h8 : P 0x8#4) (h9 : P 0x9#4) (hA : P 0xA#4) (hB : P 0xB#4)
    (hC : P 0xC#4) (hD : P 0xD#4) (hE : P 0xE#4) (hF : P 0xF#4) (n : BitVec 4) : P n := by
  have hn : n ∈ [0x0#4, 0x1#4, 0x2#4, 0x3#4, 0x4#4, 0x5#4, 0x6#4, 0x7#4, 0x8#4, 0x9#4, 0xA#4, 0xB#4, 0xC#4, 0xD#4,
      0xE#4, 0xF#4] := by
    clear * -; revert n; decide
  revert n
  simpa only [List.forall_mem_cons, List.not_mem_nil, false_imp_iff, implies_true, and_true] using
    ⟨h0, h1, h2, h3, h4, h5, h6, h7, h8, h9, hA, hB, hC, hD, hE, hF⟩

theorem spells_decode0 : ∀ lo, Spells [writtenOpcode (0x0#4 ++ lo)] encode (decode0 lo) := by
  apply forall_nibble
  case h0 | h8 => exact spells_opEbGb fun _ _ => rfl
  case h1 | h9 => exact spells_opEwGw fun _ _ => rfl
  case h2 | hA => exact spells_opGbEb fun _ _ => rfl
  case h3 | hB => exact spells_opGwEw fun _ _ => rfl
  case h4 | hC => exact spells_opIb fun _ => rfl
  case h5 | hD => exact spells_opIw fun _ => rfl
  case hF => exact spells_invalid1
  all_goals exact spells_op0 rfl

theorem spells_decode1 : ∀ lo, Spells [writtenOpcode (0x1#4 ++ lo)] encode (decode1 lo) := by
  apply forall_nibble
  case h0 | h8 => exact spells_opEbGb fun _ _ => rfl
  case h1 | h9 => exact spells_opEwGw fun _ _ => rfl
  case h2 | hA => exact spells_opGbEb fun _ _ => rfl
  case h3 | hB => exact spells_opGwEw fun _ _ => rfl
  case h4 | hC => exact spells_opIb fun _ => rfl
  case h5 | hD => exact spells_opIw fun _ => rfl
  all_goals exact spells_op0 rfl

theorem spells_decode2 : ∀ lo, Spells [writtenOpcode (0x2#4 ++ lo)] encode (decode2 lo) := by
  apply forall_nibble
  case h0 | h8 => exact spells_opEbGb fun _ _ => rfl
  case h1 | h9 => exact spells_opEwGw fun _ _ => rfl
  case h2 | hA => exact spells_opGbEb fun _ _ => rfl
  case h3 | hB => exact spells_opGwEw fun _ _ => rfl
  case h4 | hC => exact spells_opIb fun _ => rfl
  case h5 | hD => exact spells_opIw fun _ => rfl
  all_goals exact spells_op0 rfl

theorem spells_decode3 : ∀ lo, Spells [writtenOpcode (0x3#4 ++ lo)] encode (decode3 lo) := by
  apply forall_nibble
  case h0 | h8 => exact spells_opEbGb fun _ _ => rfl
  case h1 | h9 => exact spells_opEwGw fun _ _ => rfl
  case h2 | hA => exact spells_opGbEb fun _ _ => rfl
  case h3 | hB => exact spells_opGwEw fun _ _ => rfl
  case h4 | hC => exact spells_opIb fun _ => rfl
  case h5 | hD => exact spells_opIw fun _ => rfl
  all_goals exact spells_op0 rfl

theorem spells_decode4 : ∀ lo, Spells [writtenOpcode (0x4#4 ++ lo)] encode (decode4 lo) := by
  apply forall_nibble <;> exact spells_op0 rfl

theorem spells_decode5 : ∀ lo, Spells [writtenOpcode (0x5#4 ++ lo)] encode (decode5 lo) := by
  apply forall_nibble <;> exact spells_op0 rfl

theorem spells_decode6 : ∀ lo, Spells [writtenOpcode (0x6#4 ++ lo)] encode (decode6 lo) := by
  apply forall_nibble
  case h2 => exact spells_opGwM fun _ _ => rfl
  case h3 | h4 | h5 | h6 | h7 => exact spells_invalid1
  case h8 => exact spells_opIw fun _ => rfl
  case h9 => exact spells_opImulIw
  case hA => exact spells_opIb fun _ => rfl
  case hB => exact spells_opImulIb
  all_goals exact spells_op0 rfl

theorem spells_decode7 : ∀ lo, Spells [writtenOpcode (0x7#4 ++ lo)] encode (decode7 lo) := by
  apply forall_nibble <;> exact spells_opIb fun _ => rfl

theorem spells_decode8 : ∀ lo, Spells [writtenOpcode (0x8#4 ++ lo)] encode (decode8 lo) := by
  apply forall_nibble
  case h0 | h2 => exact spells_group1Eb
  case h1 => exact spells_group1EwIw
  case h3 => exact spells_group1EwIb
  case h4 | h6 | h8 => exact spells_opEbGb fun _ _ => rfl
  case h5 | h7 | h9 => exact spells_opEwGw fun _ _ => rfl
  case hA => exact spells_opGbEb fun _ _ => rfl
  case hB => exact spells_opGwEw fun _ _ => rfl
  case hC => exact spells_movFromSReg
  case hD => exact spells_opGwM fun _ _ => rfl
  case hE => exact spells_movToSReg
  case hF => exact spells_group8F

theorem spells_decode9 : ∀ lo, Spells [writtenOpcode (0x9#4 ++ lo)] encode (decode9 lo) := by
  apply forall_nibble
  case hA => exact spells_opPtr fun _ _ => rfl
  all_goals exact spells_op0 rfl

theorem spells_decodeA : ∀ lo, Spells [writtenOpcode (0xA#4 ++ lo)] encode (decodeA lo) := by
  apply forall_nibble
  case h0 | h1 | h2 | h3 | h9 => exact spells_opIw fun _ => rfl
  case h8 => exact spells_opIb fun _ => rfl
  all_goals exact spells_op0 rfl

theorem spells_decodeB : ∀ lo, Spells [writtenOpcode (0xB#4 ++ lo)] encode (decodeB lo) := by
  apply forall_nibble
  case h0 | h1 | h2 | h3 | h4 | h5 | h6 | h7 => exact spells_opIb fun _ => rfl
  all_goals exact spells_opIw fun _ => rfl

theorem spells_decodeC (isa186 : Bool) : ∀ lo, Spells [writtenOpcode (0xC#4 ++ lo)] encode (decodeC isa186 lo) := by
  apply forall_nibble
  case h0 => exact Spells.ite (fun _ => spells_group2EbIb) fun _ => spells_invalid1
  case h1 => exact Spells.ite (fun _ => spells_group2EwIb) fun _ => spells_invalid1
  case h2 | hA => exact spells_opIw fun _ => rfl
  case h4 | h5 => exact spells_opGwM fun _ _ => rfl
  case h6 => exact spells_groupC6
  case h7 => exact spells_groupC7
  case h8 => exact Spells.ite (fun _ => spells_opIwIb fun _ _ => rfl) fun _ => spells_invalid1
  case h9 => exact Spells.ite (fun _ => spells_op0 rfl) fun _ => spells_invalid1
  case hD => exact spells_opIb fun _ => rfl
  all_goals exact spells_op0 rfl

theorem spells_decodeD : ∀ lo, Spells [writtenOpcode (0xD#4 ++ lo)] encode (decodeD lo) := by
  apply forall_nibble
  case h0 => exact spells_group2Eb1
  case h1 => exact spells_group2Ew1
  case h2 => exact spells_group2EbCl
  case h3 => exact spells_group2EwCl
  case h4 | h5 => exact spells_opIb fun _ => rfl
  case h6 => exact spells_invalid1
  case h7 => exact spells_op0 rfl
  all_goals exact spells_opEsc rfl

theorem spells_decodeE : ∀ lo, Spells [writtenOpcode (0xE#4 ++ lo)] encode (decodeE lo) := by
  apply forall_nibble
  case h0 | h1 | h2 | h3 | h4 | h5 | h6 | h7 | hB => exact spells_opIb fun _ => rfl
  case h8 | h9 => exact spells_opIw fun _ => rfl
  case hA => exact spells_opPtr fun _ _ => rfl
  all_goals exact spells_op0 rfl

theorem spells_decodeF : ∀ lo, Spells [writtenOpcode (0xF#4 ++ lo)] encode (decodeF lo) := by
  apply forall_nibble
  case h1 => exact spells_invalid1
  case h6 => exact spells_group3Eb
  case h7 => exact spells_group3Ew
  case hE => exact spells_group4
  case hF => exact spells_group5
  all_goals exact spells_op0 rfl

/-! An opcode byte is its two nibbles (R90). -/

theorem nibbles_append (op : Byte) : op.extractLsb' 4 4 ++ op.extractLsb' 0 4 = op := by
  revert op
  decide

theorem highNibble_append (hi lo : BitVec 4) : (hi ++ lo).extractLsb' 4 4 = hi := by
  revert hi lo
  decide

theorem lowNibble_append (hi lo : BitVec 4) : (hi ++ lo).extractLsb' 0 4 = lo := by
  revert hi lo
  decide

/-- Under `ISA_186` = false the whole of nibble 6 is `Invalid` (R116). -/
theorem spells_invalid_nibble6 (lo : BitVec 4) : Spells [writtenOpcode (0x6#4 ++ lo)] encode (invalid1 (0x6#4 ++ lo)) := by
  have h : writtenOpcode (0x6#4 ++ lo) = 0x6#4 ++ lo := by
    revert lo
    decide
  rw [h]
  exact spells_invalid1

/-- From the opcode byte on, what is decoded is what the encoder writes for it. -/
theorem spells_decodeOpcode (isa186 : Bool) (op : Byte) : Spells [writtenOpcode op] encode (decodeOpcode isa186 op) := by
  intro bs
  obtain ⟨hi, lo, rfl⟩ : ∃ hi lo : BitVec 4, op = hi ++ lo := ⟨_, _, (nibbles_append op).symm⟩
  unfold decodeOpcode
  rw [highNibble_append, lowNibble_append]
  revert hi
  apply forall_nibble
  case h0 => exact spells_decode0 lo bs
  case h1 => exact spells_decode1 lo bs
  case h2 => exact spells_decode2 lo bs
  case h3 => exact spells_decode3 lo bs
  case h4 => exact spells_decode4 lo bs
  case h5 => exact spells_decode5 lo bs
  case h6 => exact Spells.ite (fun _ => spells_decode6 lo) (fun _ => spells_invalid_nibble6 lo) bs
  case h7 => exact spells_decode7 lo bs
  case h8 => exact spells_decode8 lo bs
  case h9 => exact spells_decode9 lo bs
  case hA => exact spells_decodeA lo bs
  case hB => exact spells_decodeB lo bs
  case hC => exact spells_decodeC isa186 lo bs
  case hD => exact spells_decodeD lo bs
  case hE => exact spells_decodeE lo bs
  case hF => exact spells_decodeF lo bs

/-! ### The length (R109) -/

theorem Decoded.len_eq (d : Decoded) : d.len = d.prefixes.length + (encode d.op).length := by
  simp [Decoded.len, Decoded.bytes]

/-- The encoding of a decoded instruction is as long as its opcode byte and the bytes consumed after it. -/
theorem length_encode_of_decodeOpcode {isa186 : Bool} {op : Byte} {bs rest : List Byte} {i : Instr}
    (h : decodeOpcode isa186 op bs = .ok (i, rest)) : (encode i).length + rest.length = bs.length + 1 := by
  simpa using (congrArg List.length (spells_decodeOpcode isa186 op bs i rest h)).symm

/-- After the bytes of R94 in `seen`, the length of what is decoded counts these and every byte consumed. -/
theorem len_of_decodeFrom {isa186 : Bool} {seen : List Prefix} {bs rest : List Byte} {d : Decoded}
    (h : decodeFrom isa186 seen bs = .ok (d, rest)) : d.len + rest.length = seen.length + bs.length := by
  induction bs generalizing seen with
  | nil => cases h
  | cons b bs ih =>
    rw [decodeFrom] at h
    rw [List.length_cons]
    split at h
    case h_1 p _ =>
      split at h
      · have hl := ih h
        rw [List.length_cons] at hl
        omega
      · cases h
        simp only [Decoded.len_eq, encode, List.length_map, List.length_reverse, List.length_cons, List.length_nil]
        omega
    case h_2 =>
      obtain ⟨i, mid, hi, hd⟩ := Parse.andThen_eq_ok h
      cases hd
      have hl := length_encode_of_decodeOpcode hi
      simp only [Decoded.len_eq, List.length_reverse]
      omega

/-- The bytes that decoding consumes are as many as the length of what it answers. -/
theorem len_of_decode {isa186 : Bool} {bs rest : List Byte} {d : Decoded} (h : decode isa186 bs = .ok (d, rest)) :
    d.len + rest.length = bs.length := by
  simpa using len_of_decodeFrom h

end Sys2Proof

namespace Sys2Proof.Machine

theorem decodeNext_of_decode {s : State} {d : Decoded} {rest : List Byte} (h : decode s.isa186 s.fetch = .ok (d, rest)) :
    s.decodeNext = .ok (d, d.len) := by
  have hl := len_of_decode h
  rw [length_fetch] at hl
  have hn : maxLength - rest.length = d.len := by omega
  simp only [State.decodeNext, h, hn]

/-- Settles O7: the number of bytes consumed is the length of the decoded instruction (`len_of_decode`). -/
theorem stepRunsDecodedInstruction : Obligations.StepRunsDecodedInstruction := by
  intro s d rest hs hd
  exact step_of_decodeNext hs (decodeNext_of_decode hd)

end Sys2Proof.Machine
end

section
namespace Sys2Proof.Machine

/-! ## The state after reset, the FLAGS image and the 8-bit registers (10_state.md R22, R31, R46) -/

/-- Settles O9: each register of `State.reset` is 0 by its number; `hostReset` takes memory over. -/
theorem resetState : Obligations.ResetState := by
  refine ⟨?_, ?_, rfl, by decide, rfl, rfl, rfl, fun _ => rfl⟩
  · intro r; cases r <;> rfl
  · intro r; cases r <;> rfl

/-- The image adds each flag at its bit to the fixed bits (R31). -/
theorem image_toNat (f : Flags) : f.image.toNat = 0xF002 + f.CF.toNat + 4 * f.PF.toNat + 16 * f.AF.toNat +
    64 * f.ZF.toNat + 128 * f.SF.toNat + 256 * f.TF.toNat + 512 * f.IF.toNat + 1024 * f.DF.toNat + 2048 * f.OF.toNat := by
  obtain ⟨c, p, a, z, s, t, i, d, o⟩ := f
  revert c p a z s t i d o
  decide

/-- Bit by bit, an image read and written again keeps the nine flags' bits and sets the fixed ones (R31). -/
theorem image_ofImage (v : Word) : (Flags.ofImage v).image = (v &&& 0x0FD5#16) ||| 0xF002#16 := by
  ext k hk
  interval_cases k <;> simp [Flags.image, Flags.ofImage, Config.flagsFixed]

/-- Settles O19: the image as a sum, its inverse flag by flag, and both round trips. -/
theorem flagsImageBits : Obligations.FlagsImageBits :=
  ⟨image_toNat, flagsFrom_ofImage, ofImage_image, image_ofImage⟩

/-- A 16-bit register is its high half times 256 plus its low half (R22). -/
theorem toNat_hi_lo (v : Word) : v.toNat = (Word.hi v).toNat * 256 + (Word.lo v).toNat := by
  rw [← Word.ofBytes_toNat, Word.ofBytes_lo_hi]

/-- Settles O18: a word is its two halves, a write of a half is the write of an 8-bit register operand
(`wrote8_put8`), and a write of the word is framed by `changes_setReg16`. -/
theorem byteRegisterAliasing : Obligations.ByteRegisterAliasing := by
  refine ⟨fun s => ?_, fun s r v => ?_, fun s r v => ?_, by decide⟩
  · exact ⟨toNat_hi_lo _, toNat_hi_lo _, toNat_hi_lo _, toNat_hi_lo _⟩
  · exact wrote8_put8 (Changes.refl s) (.reg r) v
  · exact ⟨State.reg16_setReg16_same s r v, changes_setReg16 s r v⟩

end Sys2Proof.Machine
end

section
namespace Sys2Proof.Machine

/-! ## What an instruction does to the control state (10_state.md R27 to R29, R33, R42, R43)

`exec_effect` says once what each instruction does to the parts of the state that only few instructions write; the
rules about who writes IP, a segment register, a control flag, `halted` or the handler table follow from it. -/

/-- The parts of the state that an instruction which only computes or moves data keeps: the segment registers, IP, the
control flags, VM, the handler table, `halted` and ISA_186. -/
structure Control where
  segs : Segs
  ip : Word
  tf : Bool
  ifl : Bool
  df : Bool
  vm : Bool
  handler : BitVec 256
  halted : Bool
  isa186 : Bool

def State.control (s : State) : Control where
  segs := s.segs
  ip := s.ip
  tf := s.flags.TF
  ifl := s.flags.IF
  df := s.flags.DF
  vm := s.vm
  handler := s.handler
  halted := s.halted
  isa186 := s.isa186

section
variable (s : State)

/-! ### The control flags -/

section
variable {w : Nat} (a b : BitVec w) (c : Bool) (f : Flags)

@[simp] theorem controlKept_addFlags : ControlKept f (addFlags a b c f) := ⟨rfl, rfl, rfl⟩
@[simp] theorem controlKept_subFlags : ControlKept f (subFlags a b c f) := ⟨rfl, rfl, rfl⟩
@[simp] theorem controlKept_logicFlags : ControlKept f (logicFlags a f) := ⟨rfl, rfl, rfl⟩
@[simp] theorem controlKept_incFlags : ControlKept f (incFlags a f) := ⟨rfl, rfl, rfl⟩
@[simp] theorem controlKept_decFlags : ControlKept f (decFlags a f) := ⟨rfl, rfl, rfl⟩
@[simp] theorem controlKept_setLow (v : Byte) : ControlKept f (f.setLow v) := ⟨rfl, rfl, rfl⟩

@[simp] theorem controlKept_aluFlags (op : AluOp) : ControlKept f (op.flags a b f) := by
  cases op <;> exact ⟨rfl, rfl, rfl⟩

@[simp] theorem controlKept_shiftFlags (op : ShiftOp) (n : Nat) : ControlKept s.flags (s.shiftFlags op n a b c) := by
  cases op <;> exact ⟨rfl, rfl, rfl⟩

end

/-! ### The operations that keep the control state -/

section
variable (r : Reg16) (q : Reg8) (v seg off : Word) (x : Byte) (k : Nat) (p : Pfx) (e : IoEvent)

@[simp] theorem control_setReg16 : (s.setReg16 r v).control = s.control := rfl
@[simp] theorem control_setReg8 : (s.setReg8 q x).control = s.control := rfl
@[simp] theorem control_write8 : (s.write8 seg off x).control = s.control := rfl
@[simp] theorem control_write16 : (s.write16 seg off v).control = s.control := rfl
@[simp] theorem control_push16 : (s.push16 v).control = s.control := rfl
@[simp] theorem control_drop16 : s.drop16.control = s.control := rfl
@[simp] theorem control_drew : (s.drew k).control = s.control := rfl
@[simp] theorem control_setPfx : (s.setPfx p).control = s.control := rfl
@[simp] theorem control_logIo : (s.logIo e).control = s.control := rfl
@[simp] theorem control_stepIndex : (s.stepIndex r v).control = s.control := rfl
@[simp] theorem control_popInto : (s.popInto r).control = s.control := rfl
@[simp] theorem control_decCx : s.decCx.control = s.control := rfl
@[simp] theorem control_xchgAx : (s.xchgAx r).control = s.control := rfl
@[simp] theorem control_product8 (c : Bool) : (s.product8 v c).control = s.control := rfl
@[simp] theorem control_product16 (d : BitVec 32) (c : Bool) : (s.product16 d c).control = s.control := rfl
@[simp] theorem control_imulInto (w : Word) : (s.imulInto r v w).control = s.control := rfl
@[simp] theorem control_inAl : (s.inAl v).control = s.control := rfl
@[simp] theorem control_inAx : (s.inAx v).control = s.control := rfl
@[simp] theorem control_ioWrite8 : (s.ioWrite8 v x).control = s.control := rfl
@[simp] theorem control_ioWrite16 (w : Word) : (s.ioWrite16 v w).control = s.control := rfl
@[simp] theorem control_override (sr : SReg) : (s.override sr).control = s.control := rfl
@[simp] theorem control_repeating (k : Rep) : (s.repeating k).control = s.control := rfl

@[simp] theorem control_setFlags {f : Flags} (h : ControlKept s.flags f) : (s.setFlags f).control = s.control := by
  obtain ⟨ht, hi, hd⟩ := h
  simp [State.control, ht, hi, hd]

@[simp] theorem control_put8 (l : Loc Reg8) : (s.put8 l x).control = s.control := by cases l <;> rfl
@[simp] theorem control_put16 (l : Loc Reg16) : (s.put16 l v).control = s.control := by cases l <;> rfl

end

@[simp] theorem control_alu8 (op : AluOp) (l : Loc Reg8) (b : Byte) : (s.alu8 op l b).control = s.control := by
  simp only [State.alu8]
  split <;> simp

@[simp] theorem control_alu16 (op : AluOp) (l : Loc Reg16) (b : Word) : (s.alu16 op l b).control = s.control := by
  simp only [State.alu16]
  split <;> simp

section
variable (l : Loc Reg8) (m : Loc Reg16) (x y : Byte) (v w : Word)

@[simp] theorem control_inc8 : (s.inc8 l).control = s.control := by simp [State.inc8]
@[simp] theorem control_inc16 : (s.inc16 m).control = s.control := by simp [State.inc16]
@[simp] theorem control_dec8 : (s.dec8 l).control = s.control := by simp [State.dec8]
@[simp] theorem control_dec16 : (s.dec16 m).control = s.control := by simp [State.dec16]
@[simp] theorem control_test8 : (s.test8 x y).control = s.control := by simp [State.test8]
@[simp] theorem control_test16 : (s.test16 v w).control = s.control := by simp [State.test16]

end

@[simp] theorem control_shift8 (op : ShiftOp) (l : Loc Reg8) (n : Byte) : (s.shift8 op l n).control = s.control := by
  simp only [State.shift8]
  split <;> simp

@[simp] theorem control_shift16 (op : ShiftOp) (l : Loc Reg16) (n : Byte) : (s.shift16 op l n).control = s.control := by
  simp only [State.shift16]
  split <;> simp

@[simp] theorem control_pushReg (r : Reg16) : (s.pushReg r).control = s.control := by
  simp only [State.pushReg]
  split <;> simp

@[simp] theorem control_enterCopy (n : Nat) : (enterCopy n s).control = s.control := by
  induction n generalizing s with
  | zero => rfl
  | succ n ih => simp [enterCopy, ih]

/-- The repeat loop keeps the control state if its element does (44_string.md R330). -/
theorem control_repLoop {elem : State → State} (he : ∀ u, (elem u).control = u.control) (exit : State → Bool) (n : Nat) :
    (repLoop elem exit n s).control = s.control := by
  induction n generalizing s with
  | zero => rfl
  | succ n ih =>
    simp only [repLoop]
    split
    · rfl
    · split
      · simp [he]
      · simp [ih, he]

/-- A string instruction keeps the control state if its element does, repeated or not (44_string.md R330). -/
theorem control_stringOp {elem : State → State} (he : ∀ u, (elem u).control = u.control) (exit : Rep → State → Bool) :
    (s.stringOp elem exit).control = s.control := by
  simp only [State.stringOp]
  split
  · exact he s
  · exact control_repLoop s he _ _

/-! ### Transfers and interrupts -/

theorem control_jumpIf (c : Bool) (d : Byte) : ∃ v, (s.jumpIf c d).control = { s.control with ip := v } := by
  cases c
  · exact ⟨s.ip, rfl⟩
  · exact ⟨s.ip + sext16 d, rfl⟩

/-- Interrupt entry where no handler is registered: CS and IP of the vector, TF and IF cleared (R412, R413). -/
theorem control_interrupt {s : State} (hs : s.handler = 0#256) (n : Byte) : ∃ sel off, (s.interrupt n).control =
    { s.control with segs := s.segs.set .cs sel, ip := off, tf := false, ifl := false } := by
  have hn : s.pushFrame.hasHandler n = false := by simp [State.hasHandler, hs]
  refine ⟨s.pushFrame.physWord (4 * n.toNat + 2), s.pushFrame.physWord (4 * n.toNat), ?_⟩
  simp only [State.interrupt, hn]
  rfl

/-! ### Every instruction -/

/-- The instructions that may write a segment register (R27): for ES, SS and DS its MOV, its POP and its far pointer
load; for CS the far transfers and those that can raise. -/
def WritesSeg (i : Instr) : SReg → Prop
  | .es => i = .popEs ∨ (∃ e, i = .movEsEw e) ∨ ∃ g m, i = .lesGwM g m
  | .ss => i = .popSs ∨ ∃ e, i = .movSsEw e
  | .ds => i = .popDs ∨ (∃ e, i = .movDsEw e) ∨ ∃ g m, i = .ldsGwM g m
  | .cs => i.loadsCs = true ∨ i.mayRaise = true

/-- What instruction `i` can have done to the control state, from `s` to `t`. -/
inductive ControlEffect (i : Instr) (s t : State) : Prop
  | keeps (hi : i ≠ .hlt) (ht : t.control = s.control)
  | halts (hi : i = .hlt) (ht : t.control = { s.control with halted := true })
  | jumps {off : Word} (hi : i.jumpsNear = true) (ht : t.control = { s.control with ip := off })
  | jumpsFar {sel off : Word} (hi : i.loadsCs = true)
      (ht : t.control = { s.control with segs := s.segs.set .cs sel, ip := off })
  | returns {sel off : Word} {f : Flags} (hi : i = .iret)
      (ht : t.control =
        { s.control with segs := s.segs.set .cs sel, ip := off, tf := f.TF, ifl := f.IF, df := f.DF })
  | popsFlags {f : Flags} (hi : i = .popf)
      (ht : t.control = { s.control with tf := f.TF, ifl := f.IF, df := f.DF })
  | loadsSeg (r : SReg) {v : Word} (hi : WritesSeg i r)
      (ht : t.control = { s.control with segs := s.segs.set r v })
  | setsDf {b : Bool} (hi : i = .cld ∨ i = .std) (ht : t.control = { s.control with df := b })
  | setsIf {b : Bool} (hi : i = .cli ∨ i = .sti) (ht : t.control = { s.control with ifl := b })
  | raises {n : Byte} (hi : i.mayRaise = true) (ht : t = s.interrupt n)

/-- The outcome is a next state with one of those effects. -/
def HasEffect (i : Instr) (s : State) (o : Result) : Prop := ∃ t, o = .next t ∧ ControlEffect i s t

theorem HasEffect.next {i : Instr} {s t : State} (h : ControlEffect i s t) : HasEffect i s (.next t) := ⟨t, rfl, h⟩

/-- An instruction that raises on a condition, and else keeps the control state. -/
theorem HasEffect.raiseIf {i : Instr} {s : State} {c : Prop} [Decidable c] {o : Result} (hi : i.mayRaise = true)
    (n : Byte) (ho : HasEffect i s o) : HasEffect i s (if c then .next (s.interrupt n) else o) := by
  split
  · exact .next (.raises hi rfl)
  · exact ho

theorem HasEffect.keeps {i : Instr} {s t : State} (hi : i ≠ .hlt) (ht : t.control = s.control) :
    HasEffect i s (.next t) := .next (.keeps hi ht)

/-- A jump on a condition, from a state with the same control state (43_control_transfer.md R286 to R291). -/
theorem HasEffect.jumpIf {i : Instr} {s u : State} (hi : i.jumpsNear = true) (hu : u.control = s.control)
    (c : Bool) (d : Byte) : HasEffect i s (.next (u.jumpIf c d)) := by
  obtain ⟨off, h⟩ := control_jumpIf u c d
  exact .next (.jumps hi (hu ▸ h))

/-- Every instruction has one of those effects: the cases named are those that transfer control, raise, write a segment
register, a control flag or `halted`, or branch before they answer; all others are built of the operations above that
keep the control state. -/
theorem exec_hasEffect (i : Instr) (s : State) : HasEffect i s (exec i s) := by
  cases i
  case hlt => exact .next (.halts rfl rfl)
  case iret => exact .next (.returns rfl rfl)
  case popf => exact .next (.popsFlags rfl rfl)
  case popEs => exact .next (.loadsSeg .es (.inl rfl) rfl)
  case movEsEw e => exact .next (.loadsSeg .es (.inr (.inl ⟨e, rfl⟩)) rfl)
  case lesGwM g m => exact .next (.loadsSeg .es (.inr (.inr ⟨g, m, rfl⟩)) rfl)
  case popSs => exact .next (.loadsSeg .ss (.inl rfl) rfl)
  case movSsEw e => exact .next (.loadsSeg .ss (.inr ⟨e, rfl⟩) rfl)
  case popDs => exact .next (.loadsSeg .ds (.inl rfl) rfl)
  case movDsEw e => exact .next (.loadsSeg .ds (.inr (.inl ⟨e, rfl⟩)) rfl)
  case ldsGwM g m => exact .next (.loadsSeg .ds (.inr (.inr ⟨g, m, rfl⟩)) rfl)
  case cld => exact .next (.setsDf (.inl rfl) rfl)
  case std => exact .next (.setsDf (.inr rfl) rfl)
  case cli => exact .next (.setsIf (.inl rfl) rfl)
  case sti => exact .next (.setsIf (.inr rfl) rfl)
  case int3 | intIb | invalid => exact .next (.raises rfl rfl)
  case divEb | divEw | idivEb | idivEw => exact .raiseIf rfl _ (.raiseIf rfl _ (.keeps nofun rfl))
  case aamIb | boundGwM => exact .raiseIf rfl _ (.keeps nofun rfl)
  case into =>
    cases hf : s.flags.OF
    · exact .keeps nofun (by simp [hf])
    · exact .next (.raises rfl (n := 4#8) (by simp [hf]))
  case jmpFar | jmpM | callFar | callM | retf | retfIw => exact .next (.jumpsFar rfl rfl)
  case jmpCb | jmpCw | jmpEw | callCw | callEw | ret | retIw => exact .next (.jumps rfl rfl)
  case jo | jno | jb | jnb | je | jne | jbe | ja | js | jns | jp | jnp | jl | jge | jle | jg | jcxz =>
    exact .jumpIf rfl rfl _ _
  case loop | loope | loopne => exact .jumpIf rfl (control_decCx s) _ _
  case movsb | movsw | lodsb | lodsw | cmpsb | cmpsw | scasb | scasw | stosb | stosw | insb | insw | outsb | outsw =>
    refine .keeps nofun (control_stringOp s (fun _ => ?_) _)
    rfl
  case daa | das | aaa | aas | aadIb | clc | stc | cmc => exact .keeps nofun rfl
  case enterIwIb size level =>
    refine .keeps nofun ?_
    simp only [control_setReg16]
    split <;> simp
  case pushEw e => cases e <;> exact .keeps nofun (by simp)
  all_goals exact .keeps nofun (by simp)

end

/-- THE EFFECT of an instruction on the control state, whatever next state it answers. -/
theorem exec_effect {i : Instr} {s t : State} (h : exec i s = .next t) : ControlEffect i s t := by
  obtain ⟨u, hu, he⟩ := exec_hasEffect i s
  obtain rfl : u = t := by simpa [h] using hu.symm
  exact he

/-! ### Who writes what -/

/-- No instruction but HLT writes `halted`, and none the handler table, where no handler runs (R42, R43). -/
theorem ControlEffect.machine_kept {i : Instr} {s t : State} (h : ControlEffect i s t) (hs : s.handler = 0#256)
    (hi : i ≠ .hlt) : t.halted = s.halted ∧ t.handler = s.handler := by
  cases h
  case halts hlt _ => exact absurd hlt hi
  case raises n _ ht =>
    obtain ⟨sel, off, hc⟩ := control_interrupt hs n
    subst ht
    exact ⟨congrArg Control.halted hc, congrArg Control.handler hc⟩
  case keeps ht | jumps ht | jumpsFar ht | returns ht | popsFlags ht | loadsSeg ht | setsDf ht
      | setsIf ht => exact ⟨congrArg Control.halted ht, congrArg Control.handler ht⟩

/-- Settles O13: HLT sets `halted`; every other effect keeps it (`ControlEffect.machine_kept`). -/
theorem onlyHltHalts : Obligations.OnlyHltHalts := by
  intro i s t hs h
  by_cases hi : i = .hlt
  · subst hi
    cases h
    exact ⟨by simp, hs⟩
  · obtain ⟨hhalted, hhandler⟩ := (exec_effect h).machine_kept hs hi
    exact ⟨by simp [hhalted, hi], hhandler.trans hs⟩

/-- Settles O14: POPF and IRET apart, only the single-flag instructions and interrupt entry have an effect on DF, IF
or TF. -/
theorem controlFlagWriters : Obligations.ControlFlagWriters := by
  intro i s t hs h hpopf hiret
  cases exec_effect h
  case popsFlags hi _ => exact absurd hi hpopf
  case returns hi _ => exact absurd hi hiret
  case setsDf hi ht =>
    exact ⟨fun hcld hstd => absurd hi (not_or.mpr ⟨hcld, hstd⟩), fun _ _ => .inl (congrArg Control.ifl ht),
      .inl (congrArg Control.tf ht)⟩
  case setsIf hi ht =>
    exact ⟨fun _ _ => congrArg Control.df ht, fun hcli hsti => absurd hi (not_or.mpr ⟨hcli, hsti⟩),
      .inl (congrArg Control.tf ht)⟩
  case raises n hi ht =>
    obtain ⟨sel, off, hc⟩ := control_interrupt hs n
    subst ht
    exact ⟨fun _ _ => congrArg Control.df hc, fun _ _ => .inr ⟨hi, congrArg Control.ifl hc⟩,
      .inr ⟨hi, congrArg Control.tf hc⟩⟩
  case keeps ht | halts ht | jumps ht | jumpsFar ht | loadsSeg ht =>
    exact ⟨fun _ _ => congrArg Control.df ht, fun _ _ => .inl (congrArg Control.ifl ht), .inl (congrArg Control.tf ht)⟩

/-- A write of a segment register by an instruction listed for it keeps every register it is not listed for. -/
theorem seg_kept_or_writes {i : Instr} {s t : State} {v : Word} (r : SReg) (hi : WritesSeg i r)
    (h : t.control.segs = s.segs.set r v) (q : SReg) : t.seg q = s.seg q ∨ WritesSeg i q := by
  have ht : t.seg q = if q = r then v else s.seg q := (congrArg (Segs.get · q) h).trans (Segs.get_set s.segs r q v)
  by_cases hq : q = r
  · exact .inr (hq ▸ hi)
  · exact .inl (by rw [ht, if_neg hq])

/-- Each effect keeps a segment register or is that of an instruction listed for it (R27). -/
theorem ControlEffect.seg_kept {i : Instr} {s t : State} (h : ControlEffect i s t) (hs : s.handler = 0#256) (q : SReg) :
    t.seg q = s.seg q ∨ WritesSeg i q := by
  cases h
  case loadsSeg r _ hi ht => exact seg_kept_or_writes r hi (congrArg Control.segs ht) q
  case jumpsFar hi ht => exact seg_kept_or_writes .cs (.inl hi) (congrArg Control.segs ht) q
  case returns hi ht => exact seg_kept_or_writes .cs (.inl (hi ▸ rfl)) (congrArg Control.segs ht) q
  case raises n hi ht =>
    obtain ⟨sel, off, hc⟩ := control_interrupt hs n
    subst ht
    exact seg_kept_or_writes .cs (.inr hi) (congrArg Control.segs hc) q
  case keeps ht | halts ht | jumps ht | popsFlags ht | setsDf ht | setsIf ht =>
    exact .inl (State.seg_congr (congrArg Control.segs ht) q)

/-- Settles O15: `ControlEffect.seg_kept` for each segment register. -/
theorem segmentRegisterWriters : Obligations.SegmentRegisterWriters := by
  intro i s t hs h
  have hk := (exec_effect h).seg_kept hs
  exact ⟨hk .es, hk .ss, hk .ds, hk .cs⟩

/-! ### The instructions that go on at the next one (R29) -/

theorem thenDo_eq_next {o : Result} {k : State → Result} {t : State} (h : thenDo o k = .next t) :
    ∃ u, o = .next u ∧ k u = .next t := by
  cases o
  case next u => exact ⟨u, rfl, h⟩
  case fault => cases h
  case refused => cases h

/-- The bytes of R94 keep the control state. -/
theorem control_execPrefixes {ps : List Prefix} {s t : State} (h : execPrefixes ps s = .next t) :
    t.control = s.control := by
  induction ps generalizing s with
  | nil => cases h; rfl
  | cons p ps ih =>
    obtain ⟨u, hu, hps⟩ := thenDo_eq_next h
    have hc : u.control = s.control := by cases p <;> cases hu <;> rfl
    rw [ih hps, hc]

/-- An instruction that neither transfers control nor can raise keeps IP and CS (R29). -/
theorem ControlEffect.ip_cs_kept {i : Instr} {s t : State} (h : ControlEffect i s t) (hnear : i.jumpsNear = false)
    (hfar : i.loadsCs = false) (hraise : i.mayRaise = false) : t.ip = s.ip ∧ t.seg .cs = s.seg .cs := by
  cases h
  case jumps hi _ => simp [hnear] at hi
  case jumpsFar hi _ => simp [hfar] at hi
  case returns hi _ => subst hi; cases hfar
  case raises hi _ => simp [hraise] at hi
  case loadsSeg r _ hi ht =>
    have hcs := seg_kept_or_writes r hi (congrArg Control.segs ht) .cs
    exact ⟨congrArg Control.ip ht, hcs.resolve_right (by simp [WritesSeg, hfar, hraise])⟩
  case keeps ht | halts ht | popsFlags ht | setsDf ht | setsIf ht =>
    exact ⟨congrArg Control.ip ht, congrArg (fun c => c.segs.cs) ht⟩

/-- Settles O16: the bytes of R94 and such an instruction keep the IP that the step has advanced. -/
theorem otherInstructionsAdvance : Obligations.OtherInstructionsAdvance := by
  intro s t d rest hs hd hnear hfar hraise h
  rw [step_of_decodeNext hs (decodeNext_of_decode hd)] at h
  obtain ⟨u, hu, h⟩ := thenDo_eq_next h
  obtain ⟨w, hw, h⟩ := thenDo_eq_next h
  cases h
  have hp := control_execPrefixes hu
  obtain ⟨hip, hcs⟩ := (exec_effect hw).ip_cs_kept hnear hfar hraise
  have hip' : u.ip = s.ip + BitVec.ofNat 16 d.len := congrArg Control.ip hp
  have hcs' : u.seg .cs = s.seg .cs := congrArg (fun c => c.segs.cs) hp
  refine ⟨?_, hcs.trans hcs'⟩
  simp [State.endInstr, hip, hip']

end Sys2Proof.Machine
end

section
namespace Sys2Proof.Machine

/-! ## THE INVARIANT: memory stays canonical, VM 0, no byte of R94 remembered (10_state.md R32, R44, 20_memory.md R61)

`exec_memory_wf` says once that every instruction keeps the canonical form; VM is part of the control state, whose
effects `exec_effect` lists. -/

/-! ### VM and ISA_186 -/

/-- Interrupt entry, through a handler or the vector, writes neither VM nor ISA_186 (log entry 5). -/
theorem interrupt_parameters (s : State) (n : Byte) :
    (s.interrupt n).vm = s.vm ∧ (s.interrupt n).isa186 = s.isa186 := by
  simp only [State.interrupt]
  split <;> exact ⟨rfl, rfl⟩

/-- No effect of an instruction writes VM or ISA_186. -/
theorem ControlEffect.parameters_kept {i : Instr} {s t : State} (h : ControlEffect i s t) :
    t.vm = s.vm ∧ t.isa186 = s.isa186 := by
  cases h
  case raises n _ ht => subst ht; exact interrupt_parameters s n
  case keeps ht | halts ht | jumps ht | jumpsFar ht | returns ht | popsFlags ht | loadsSeg ht | setsDf ht
      | setsIf ht => exact ⟨congrArg Control.vm ht, congrArg Control.isa186 ht⟩

/-! ### The operations that write memory keep its canonical form -/

/-- A write through a segment is a write inside the memory. -/
@[simp] theorem wf_write_phys {m : Memory} (hm : m.wf = true) (seg off : Word) (b : Byte) :
    (m.write (phys seg off) b).wf = true :=
  Memory.wf_write b (phys_lt seg off) hm

section
variable {s : State} (hs : s.mem.wf = true)
include hs

@[simp] theorem wf_put8 (l : Loc Reg8) (x : Byte) : (s.put8 l x).mem.wf = true := by
  cases l
  case reg r => exact hs
  case mem seg off => exact State.wf_write8 seg off x hs

@[simp] theorem wf_put16 (l : Loc Reg16) (v : Word) : (s.put16 l v).mem.wf = true := by
  cases l
  case reg r => exact hs
  case mem seg off => exact State.wf_write16 seg off v hs

@[simp] theorem wf_alu8 (op : AluOp) (l : Loc Reg8) (b : Byte) : (s.alu8 op l b).mem.wf = true := by
  simp only [State.alu8]
  split <;> simp [hs]

@[simp] theorem wf_alu16 (op : AluOp) (l : Loc Reg16) (b : Word) : (s.alu16 op l b).mem.wf = true := by
  simp only [State.alu16]
  split <;> simp [hs]

@[simp] theorem wf_inc8 (l : Loc Reg8) : (s.inc8 l).mem.wf = true := by simp [State.inc8, hs]
@[simp] theorem wf_inc16 (l : Loc Reg16) : (s.inc16 l).mem.wf = true := by simp [State.inc16, hs]
@[simp] theorem wf_dec8 (l : Loc Reg8) : (s.dec8 l).mem.wf = true := by simp [State.dec8, hs]
@[simp] theorem wf_dec16 (l : Loc Reg16) : (s.dec16 l).mem.wf = true := by simp [State.dec16, hs]

@[simp] theorem wf_shift8 (op : ShiftOp) (l : Loc Reg8) (n : Byte) : (s.shift8 op l n).mem.wf = true := by
  simp only [State.shift8]
  split <;> simp [hs]

@[simp] theorem wf_shift16 (op : ShiftOp) (l : Loc Reg16) (n : Byte) : (s.shift16 op l n).mem.wf = true := by
  simp only [State.shift16]
  split <;> simp [hs]

@[simp] theorem wf_pushReg (r : Reg16) : (s.pushReg r).mem.wf = true := by
  simp only [State.pushReg]
  split <;> exact State.wf_push16 _ hs

theorem wf_pushFrame : s.pushFrame.mem.wf = true :=
  State.wf_push16 _ (State.wf_push16 _ (State.wf_push16 _ hs))

/-- Interrupt entry: three pushes, and what a handler stores (60_exceptions.md R412, R415). -/
theorem wf_interrupt (n : Byte) : (s.interrupt n).mem.wf = true := by
  simp only [State.interrupt]
  split
  · exact Memory.wf_storeAll _ (wf_pushFrame hs)
  · exact wf_pushFrame hs

end

theorem wf_enterCopy (n : Nat) {s : State} (hs : s.mem.wf = true) : (enterCopy n s).mem.wf = true := by
  induction n generalizing s with
  | zero => exact hs
  | succ n ih => exact ih (State.wf_push16 _ hs)

/-- The element of a string instruction stores in canonical form, if it stores. -/
def KeepsWf (elem : State → State) : Prop := ∀ u : State, u.mem.wf = true → (elem u).mem.wf = true

theorem wf_repLoop {elem : State → State} (he : KeepsWf elem) (exit : State → Bool) (n : Nat) {s : State}
    (hs : s.mem.wf = true) : (repLoop elem exit n s).mem.wf = true := by
  induction n generalizing s with
  | zero => exact hs
  | succ n ih =>
    simp only [repLoop]
    split
    · exact hs
    · split
      · exact he s hs
      · exact ih (he s hs)

/-- A string instruction keeps the canonical form if its element does, repeated or not (44_string.md R330). -/
theorem wf_stringOp {elem : State → State} (he : KeepsWf elem) (exit : Rep → State → Bool) {s : State}
    (hs : s.mem.wf = true) : (s.stringOp elem exit).mem.wf = true := by
  simp only [State.stringOp]
  split
  · exact he s hs
  · exact wf_repLoop he _ _ hs

/-! ### Every instruction -/

/-- The outcome is a next state with memory in its canonical form. -/
def AnswersWf (o : Result) : Prop := ∃ t, o = .next t ∧ t.mem.wf = true

theorem AnswersWf.next {t : State} (h : t.mem.wf = true) : AnswersWf (.next t) := ⟨t, rfl, h⟩

/-- An instruction that raises on a condition. -/
theorem AnswersWf.raiseIf {s : State} {c : Prop} [Decidable c] {o : Result} (hs : s.mem.wf = true) (n : Byte)
    (ho : AnswersWf o) : AnswersWf (if c then .next (s.interrupt n) else o) := by
  split
  · exact .next (wf_interrupt hs n)
  · exact ho

/-- Every instruction answers with memory in its canonical form: the cases named are those that raise, repeat, branch,
push more than once, or write registers and flags alone by an operation of their own; all others are built of the
operations above. -/
theorem exec_answersWf (i : Instr) {s : State} (hs : s.mem.wf = true) : AnswersWf (exec i s) := by
  cases i
  case int3 | intIb | invalid => exact .next (wf_interrupt hs _)
  case divEb | divEw | idivEb | idivEw => exact .raiseIf hs _ (.raiseIf hs _ (.next hs))
  case aamIb | boundGwM => exact .raiseIf hs _ (.next hs)
  case into =>
    refine .next ?_
    split
    · exact wf_interrupt hs _
    · exact hs
  case movsb | movsw | stosb | stosw | insb | insw =>
    refine .next (wf_stringOp (fun u hu => ?_) _ hs)
    simp [hu, movsElem8, movsElem16, stosElem8, stosElem16, insElem8, insElem16, State.putDst8, State.putDst16]
  case lodsb | lodsw | cmpsb | cmpsw | scasb | scasw | outsb | outsw =>
    refine .next (wf_stringOp (fun u hu => ?_) _ hs)
    exact hu
  case jo | jno | jb | jnb | je | jne | jbe | ja | js | jns | jp | jnp | jl | jge | jle | jg | jcxz | loop | loope
      | loopne =>
    refine .next ?_
    simp only [State.jumpIf]
    split <;> exact hs
  case enterIwIb size level =>
    refine .next ?_
    simp only [State.setReg16_mem]
    split
    · exact State.wf_push16 _ hs
    · exact State.wf_push16 _ (wf_enterCopy _ (State.wf_push16 _ hs))
  case pushEw e =>
    cases e
    case reg r => exact .next (wf_pushReg hs r)
    case mem m => exact .next (State.wf_push16 _ hs)
  case callCw => exact .next (State.wf_push16 _ hs)
  case callFar | callM => exact .next (State.wf_push16 _ (State.wf_push16 _ hs))
  case pusha =>
    refine .next ?_
    iterate 8 apply State.wf_push16
    exact hs
  case mulEb | mulEw | imulEb | imulEw | imulGwEwIw | imulGwEwIb => exact .next hs
  case testEbGb | testEwGw | testAlIb | testAxIw | testEbIb | testEwIw => exact .next hs
  case xchgAxCx | xchgAxDx | xchgAxBx | xchgAxSp | xchgAxBp | xchgAxSi | xchgAxDi => exact .next hs
  case inAlIb | inAxIb | inAlDx | inAxDx => exact .next hs
  case popa | leave => exact .next (by simp [hs, State.popInto])
  case jmpCb | jmpCw | jmpFar | jmpM | ret | retIw | retf | retfIw | iret => exact .next hs
  case segEs | segCs | segSs | segDs | repne | rep => exact .next hs
  all_goals exact .next (by simp [hs, State.wf_push16])

/-- Every instruction keeps memory in its canonical form. -/
theorem exec_memory_wf {i : Instr} {s t : State} (hs : s.mem.wf = true) (h : exec i s = .next t) : t.mem.wf = true := by
  obtain ⟨u, hu, hw⟩ := exec_answersWf i hs
  obtain rfl : u = t := by simpa [h] using hu.symm
  exact hw

theorem execPrefixes_memory_wf {ps : List Prefix} {s t : State} (hs : s.mem.wf = true) (h : execPrefixes ps s = .next t) :
    t.mem.wf = true := by
  induction ps generalizing s with
  | nil => cases h; exact hs
  | cons p ps ih =>
    obtain ⟨u, hu, hps⟩ := thenDo_eq_next h
    exact ih (exec_memory_wf hs hu) hps

/-- A step that answers a next state has run the bytes of R94 and then the meaning of the instruction decoded. -/
theorem step_eq_next {s t : State} (h : step s = .next t) : ∃ d len u w, s.decodeNext = .ok (d, len) ∧
    execPrefixes d.prefixes (s.advance len) = .next u ∧ exec d.op u = .next w ∧ t = w.endInstr := by
  by_cases hs : s.halted = true
  · rw [step_of_halted hs] at h
    cases h
  · obtain ⟨d, len, hd⟩ := fetch_decodes s
    rw [step_of_decodeNext (by simpa using hs) hd] at h
    obtain ⟨u, hu, h⟩ := thenDo_eq_next h
    obtain ⟨w, hw, h⟩ := thenDo_eq_next h
    cases h
    exact ⟨d, len, u, w, hd, hu, hw, rfl⟩

/-- Settles O11: advancing IP and the bytes of R94 keep memory and VM, the instruction keeps the canonical form
(`exec_memory_wf`) and VM (`ControlEffect.parameters_kept`), and the end of the step forgets the bytes of R94. -/
theorem stepKeepsInv : Obligations.StepKeepsInv := by
  rintro s t ⟨hmem, hvm, -⟩ h
  obtain ⟨d, len, u, w, -, hu, hw, rfl⟩ := step_eq_next h
  have hwu : u.mem.wf = true := execPrefixes_memory_wf (s := s.advance len) hmem hu
  have hvu : u.vm = s.vm := congrArg Control.vm (control_execPrefixes hu)
  have hww : w.mem.wf = true := exec_memory_wf hwu hw
  exact ⟨hww, ((exec_effect hw).parameters_kept.1.trans hvu).trans hvm, rfl⟩

end Sys2Proof.Machine
end

section
namespace Sys2Proof.Machine

/-! ## Addresses and the last byte written (20_memory.md R60, R64, R65, R76) -/

/-- The translation reduces the sum at most once: 16 times a 16-bit segment plus a 16-bit offset is below 2^21. -/
theorem phys_cases (seg off : Word) :
    (seg.toNat * 16 + off.toNat < 0x100000 → phys seg off = seg.toNat * 16 + off.toNat) ∧
      (0x100000 ≤ seg.toNat * 16 + off.toNat → phys seg off + 0x100000 = seg.toNat * 16 + off.toNat) := by
  have hseg := seg.isLt
  have hoff := off.isLt
  simp only [phys, Config.memSize]
  omega

/-- Settles O20: the range (`phys_lt`), the sum reduced once (`phys_cases`), and aliasing, which is the definition. -/
theorem physicalAddresses : Obligations.PhysicalAddresses :=
  ⟨fun seg off => ⟨phys_lt seg off, phys_cases seg off⟩, fun _ _ _ _ => Iff.rfl⟩

/-- A word read is its low byte plus 256 times its high byte (R63, R64). -/
theorem toNat_read16 (s : State) (seg off : Word) :
    (s.read16 seg off).toNat = (s.read8 seg off).toNat + 256 * (s.read8 seg (off + 1#16)).toNat := by
  rw [State.read16, Word.ofBytes_toNat]
  omega

/-- Settles O21: a byte and a word read back what was written (`Memory.read_write`, `State.read16_write16`), each write
is framed (`changes_write8`, `changes_write16`) and keeps the canonical form (`State.wf_write16`). -/
theorem memoryReadsLastWrite : Obligations.MemoryReadsLastWrite := by
  refine ⟨fun _ _ _ => rfl, fun s seg off b => ⟨?_, changes_write8 s seg off b⟩, Memory.read_write, fun s seg off => ?_,
    fun s seg off v => ⟨?_, changes_write16 s seg off v⟩, fun s => State.wf_write16⟩
  · exact Memory.read_write_same _ _ b
  · have hnext : BitVec.ofNat 16 (off.toNat + 1) = off + 1#16 := by simp [BitVec.ofNat_add]
    rw [hnext]
    exact toNat_read16 s seg off
  · exact (State.holdsWord_iff _ _ _ _).mpr (State.read16_write16 s seg off v)

end Sys2Proof.Machine
end

section
namespace Sys2Proof.Machine

/-! ## Words popped are words pushed (20_memory.md R70, R71)

`Pushed` (Safety.lean) says where a run of pushes has put its words; `Popped` says how far a run of pops has come. They
meet in the stack words of the state between (`Pushed.stackWord`, `Popped.top16`, `Pushed.sp_popped`). -/

/-! ### After a run of pushes -/

theorem below_add (s : State) {j k : Nat} (h : j ≤ k) : s.below k + BitVec.ofNat 16 j = s.below (k - j) := by
  obtain ⟨d, rfl⟩ := Nat.exists_eq_add_of_le h
  simp only [State.below, BitVec.ofNat_add, Nat.add_sub_cancel_left]
  bv_omega

theorem below_zero (s : State) : s.below 0 = s.reg16 .sp := by simp [State.below]

section
variable {s t : State} {vs : List Word} {regs : List Reg16} {parts : List Part}

theorem Pushed.seg_ss (h : Pushed s t vs regs parts) (hp : .ss ∉ parts) : t.seg .ss = s.seg .ss :=
  h.2.2.parts .ss hp

theorem Pushed.mono (h : Pushed s t vs regs parts) {regs' : List Reg16} (hr : regs ⊆ regs') :
    Pushed s t vs regs' parts := by
  obtain ⟨hsp, hw, hc⟩ := h
  exact ⟨hsp, hw, hc.mono (List.cons_subset_cons _ hr) (List.Subset.refl _) (List.Subset.refl _)⟩

theorem Pushed.pushNext (h : Pushed s t vs regs parts) (v : Word) (hp : .ss ∉ parts) (hn : vs.length < 0x4000) :
    Pushed s (t.push16 v) (vs ++ [v]) regs parts :=
  h.push v (h.seg_ss hp) hn

/-- A write of a register other than SP leaves the words where they are. -/
theorem Pushed.setReg16 (h : Pushed s t vs regs parts) {r : Reg16} (hsp : r ≠ .sp) (hr : r ∈ regs) (v : Word) :
    Pushed s (t.setReg16 r v) vs regs parts := by
  obtain ⟨hs, hw, hc⟩ := h
  refine ⟨?_, hw, hc.trans (changes_setReg16 t r v) ?_ (by simp) (by simp)⟩
  · rw [State.reg16_setReg16, if_neg hsp.symm, hs]
  · simp [hr]

theorem Pushed.above (h : Pushed s t vs regs parts) {j : Nat} (hj : j ≤ vs.length) :
    t.above (2 * j) = s.below (2 * (vs.length - j)) := by
  rw [State.above, h.1, below_add s (by omega), Nat.mul_sub]

/-- The `j`-th word on the stack is the `j`-th from the end of those pushed. -/
theorem Pushed.stackWord (h : Pushed s t vs regs parts) (hp : .ss ∉ parts) {j : Nat} {v : Word}
    (hv : vs.reverse[j]? = some v) : t.stackWord j = v := by
  obtain ⟨hj, -⟩ := List.getElem?_eq_some_iff.mp hv
  rw [List.length_reverse] at hj
  rw [List.getElem?_reverse hj] at hv
  have hslot : 2 * (vs.length - j) = 2 * (vs.length - 1 - j) + 2 := by omega
  rw [State.stackWord, h.seg_ss hp, h.above hj.le, hslot]
  exact (State.holdsWord_iff _ _ _ _).mp (h.2.1 _ v hv)

end

/-! ### After a run of pops -/

/-- From `s` to `u` the stack pointer has passed `n` words; memory and SS are as in `s`. -/
structure Popped (s u : State) (n : Nat) : Prop where
  mem : u.mem = s.mem
  ss : u.seg .ss = s.seg .ss
  sp : u.reg16 .sp = s.above (2 * n)

theorem Popped.refl (s : State) : Popped s s 0 := ⟨rfl, rfl, (above_zero s).symm⟩

theorem State.reg16_popInto (u : State) (r q : Reg16) : (u.popInto r).reg16 q =
    if q = r then u.top16 else if q = .sp then u.reg16 .sp + 2#16 else u.reg16 q := by
  rw [State.popInto, State.reg16_setReg16, State.reg16_drop16]

section
variable {s u : State} {n : Nat} (h : Popped s u n)
include h

theorem Popped.top16 : u.top16 = s.stackWord n := State.top16_of h.mem h.ss h.sp

theorem Popped.drop16 : Popped s u.drop16 (n + 1) :=
  ⟨h.mem, h.ss, by rw [State.reg16_drop16, if_pos rfl, h.sp, above_two]; rfl⟩

theorem Popped.setIp (v : Word) : Popped s (u.setIp v) n := ⟨h.mem, h.ss, h.sp⟩

theorem Popped.setCs (v : Word) : Popped s (u.setSeg .cs v) n := ⟨h.mem, h.ss, h.sp⟩

theorem Popped.popInto {r : Reg16} (hr : r ≠ .sp) : Popped s (u.popInto r) (n + 1) := by
  refine ⟨h.mem, h.ss, ?_⟩
  rw [State.popInto, State.reg16_setReg16, if_neg hr.symm]
  exact h.drop16.sp

end

/-- As many words popped as were pushed: SP is back. -/
theorem Pushed.sp_popped {s t u : State} {vs : List Word} {regs : List Reg16} {parts : List Part}
    (h : Pushed s t vs regs parts) (hu : Popped t u vs.length) : u.reg16 .sp = s.reg16 .sp := by
  rw [hu.sp, h.above le_rfl, Nat.sub_self]
  exact below_zero s

/-! ### PUSH and POP, PUSHF and POPF (R228, R231, R247, R248) -/

theorem top16_push16 (s : State) (v : Word) : (s.push16 v).top16 = v := by
  rw [State.top16_eq]
  exact (pushed_push16 s v).stackWord (by simp) rfl

theorem sp_drop16_push16 (s : State) (v : Word) : (s.push16 v).drop16.reg16 .sp = s.reg16 .sp :=
  (pushed_push16 s v).sp_popped (Popped.refl _).drop16

theorem pushReg_eq_push16 (s : State) (r : Reg16) :
    s.pushReg r = s.push16 (if r = .sp then s.below 2 else s.reg16 r) := by
  simp only [State.pushReg]
  split <;> rfl

theorem push_pop {s t u : State} {r q : Reg16} (ht : exec (.pushR16 r) s = .next t) (hu : exec (.popR16 q) t = .next u) :
    u.reg16 q = (if r = .sp then s.below 2 else s.reg16 r) ∧ (q ≠ .sp → u.reg16 .sp = s.reg16 .sp) := by
  cases ht
  cases hu
  rw [pushReg_eq_push16, top16_push16]
  refine ⟨State.reg16_setReg16_same _ _ _, fun hq => ?_⟩
  rw [State.reg16_setReg16, if_neg hq.symm, sp_drop16_push16]

theorem pushf_popf {s t u : State} (ht : exec .pushf s = .next t) (hu : exec .popf t = .next u) :
    u.flags = s.flags ∧ u.reg16 .sp = s.reg16 .sp := by
  cases ht
  cases hu
  rw [top16_push16]
  exact ⟨ofImage_image s.flags, sp_drop16_push16 s _⟩

/-! ### CALL and RET (R276 to R279, R281, R283) -/

section
variable {s t : State} {regs : List Reg16} {parts : List Part}

/-- A near return takes back the word pushed (R281). -/
theorem Pushed.retNear {ip : Word} (h : Pushed s t [ip] regs parts) (hp : .ss ∉ parts) :
    t.retNear.ip = ip ∧ t.retNear.reg16 .sp = s.reg16 .sp := by
  refine ⟨?_, h.sp_popped ((Popped.refl t).drop16.setIp _)⟩
  exact (State.top16_eq t).trans (h.stackWord hp rfl)

/-- A far return takes back the two words pushed (R283). -/
theorem Pushed.retFar {cs ip : Word} (h : Pushed s t [cs, ip] regs parts) (hp : .ss ∉ parts) :
    t.retFar.ip = ip ∧ t.retFar.seg .cs = cs ∧ t.retFar.reg16 .sp = s.reg16 .sp := by
  have h1 : Popped t t.retNear 1 := (Popped.refl t).drop16.setIp _
  refine ⟨?_, ?_, h.sp_popped (h1.drop16.setCs _)⟩
  · exact (State.top16_eq t).trans (h.stackWord hp rfl)
  · exact h1.top16.trans (h.stackWord hp rfl)

end

/-- A near call pushes the return address, and jumps (R276, R277). -/
theorem pushed_callNear (s : State) (target : Word) : Pushed s ((s.push16 s.ip).setIp target) [s.ip] [] [.ip] :=
  (pushed_push16 s s.ip).trans (changes_setIp _ target) (by simp)

/-- A far call pushes CS and the return address, and jumps (R278, R279). -/
theorem pushed_callFar (s : State) (sel off : Word) :
    Pushed s (s.pushCsIp.jumpFar sel off) [s.seg .cs, s.ip] [] [.cs, .ip] := by
  have hpush : Pushed s s.pushCsIp [s.seg .cs, s.ip] [] [] := (pushed_push16 s (s.seg .cs)).push s.ip rfl (by simp)
  exact (hpush.trans (changes_setCs _ sel) (p := [.cs]) (by simp)).trans (changes_setIp _ off) (by simp)

/-! ### PUSHA and POPA (46_ext186.md R381, R382) -/

theorem pushed_pusha {s t : State} (h : exec .pusha s = .next t) : Pushed s t [s.reg16 .ax, s.reg16 .cx, s.reg16 .dx,
    s.reg16 .bx, s.reg16 .sp, s.reg16 .bp, s.reg16 .si, s.reg16 .di] [] [] := by
  cases h
  have hcx := (pushed_push16 s (s.reg16 .ax)).pushNext (s.reg16 .cx) nofun (by simp)
  have hbx := (hcx.pushNext (s.reg16 .dx) nofun (by simp)).pushNext (s.reg16 .bx) nofun (by simp)
  have hbp := (hbx.pushNext (s.reg16 .sp) nofun (by simp)).pushNext (s.reg16 .bp) nofun (by simp)
  exact (hbp.pushNext (s.reg16 .si) nofun (by simp)).pushNext (s.reg16 .di) nofun (by simp)

/-- Which word of the stack POPA puts into each register; the fourth, the SP pushed, is skipped. -/
def State.popaWord (t : State) : Reg16 → Word
  | .ax => t.stackWord 7
  | .cx => t.stackWord 6
  | .dx => t.stackWord 5
  | .bx => t.stackWord 4
  | .sp => t.above 16
  | .bp => t.stackWord 2
  | .si => t.stackWord 1
  | .di => t.stackWord 0

theorem reg16_popa {t u : State} (h : exec .popa t = .next u) (r : Reg16) : u.reg16 r = t.popaWord r := by
  cases h
  have h1 := (Popped.refl t).popInto (r := .di) nofun
  have h2 := h1.popInto (r := .si) nofun
  have h3 := h2.popInto (r := .bp) nofun
  have h4 := h3.drop16
  have h5 := h4.popInto (r := .bx) nofun
  have h6 := h5.popInto (r := .dx) nofun
  have h7 := h6.popInto (r := .cx) nofun
  have h8 := h7.popInto (r := .ax) nofun
  cases r
  case sp => exact h8.sp
  all_goals
    simp [State.reg16_popInto, State.popaWord, (Popped.refl t).top16, h1.top16, h2.top16, h4.top16, h5.top16, h6.top16,
      h7.top16]

theorem pusha_popa {s t u : State} (ht : exec .pusha s = .next t) (hu : exec .popa t = .next u) (r : Reg16) :
    u.reg16 r = s.reg16 r := by
  have h := pushed_pusha ht
  rw [reg16_popa hu]
  cases r
  case sp => exact (h.above (j := 8) le_rfl).trans (below_zero s)
  all_goals exact h.stackWord (by simp) rfl

/-! ### ENTER and LEAVE (46_ext186.md R390, R391) -/

/-- Copying `n` frame pointers pushes `n` words more, whatever they are. -/
theorem Pushed.enterCopy {s t : State} {vs : List Word} (n : Nat) (h : Pushed s t vs [.bp] [])
    (hn : vs.length + n ≤ 0x4000) : ∃ ws, ws.length = n ∧ Pushed s (enterCopy n t) (vs ++ ws) [.bp] [] := by
  induction n generalizing t vs with
  | zero => exact ⟨[], rfl, (List.append_nil vs).symm ▸ h⟩
  | succ n ih =>
    have hbp := h.setReg16 (r := .bp) nofun (by simp) (t.reg16 .bp - 2#16)
    obtain ⟨ws, hlen, hw⟩ := ih (hbp.pushNext _ nofun (by omega)) (by simp; omega)
    rw [List.append_assoc] at hw
    exact ⟨_, by simp [hlen], hw⟩

/-- ENTER pushes BP and then as many words as its level asks for, and leaves the address of the first in BP (R390). -/
theorem exec_enter (s : State) (size : Word) (level : Byte) : ∃ ws u sp, Pushed s u (s.reg16 .bp :: ws) [.bp] [] ∧
    exec (.enterIwIb size level) s = .next ((u.setReg16 .bp (s.below 2)).setReg16 .sp sp) := by
  have hbp : Pushed s (s.push16 (s.reg16 .bp)) [s.reg16 .bp] [.bp] [] := (pushed_push16 s _).mono (by simp)
  have harm : exec (.enterIwIb size level) s = execEnterIwIb size level s := rfl
  simp only [harm, execEnterIwIb, hbp.1]
  split
  · exact ⟨[], _, _, hbp, rfl⟩
  · obtain ⟨ws, hlen, hws⟩ := hbp.enterCopy (level.toNat % 32 - 1) (by simp; omega)
    exact ⟨_, _, _, hws.pushNext _ nofun (by simp; omega), rfl⟩

theorem enter_frame {s t : State} {size : Word} {level : Byte} (h : exec (.enterIwIb size level) s = .next t) :
    t.HoldsWord (s.seg .ss) (s.below 2) (s.reg16 .bp) ∧ t.reg16 .bp = s.below 2 ∧ t.seg .ss = s.seg .ss := by
  obtain ⟨ws, u, sp, hu, he⟩ := exec_enter s size level
  cases he.symm.trans h
  exact ⟨hu.2.1 0 _ rfl, rfl, hu.seg_ss nofun⟩

/-- LEAVE pops BP from where BP points (R391). -/
theorem leave_regs {t u : State} (h : exec .leave t = .next u) :
    u.reg16 .bp = t.read16 (t.seg .ss) (t.reg16 .bp) ∧ u.reg16 .sp = t.reg16 .bp + 2#16 := by
  cases h
  have htop : (t.setReg16 .sp (t.reg16 .bp)).top16 = t.read16 (t.seg .ss) (t.reg16 .bp) := rfl
  rw [State.reg16_popInto, State.reg16_popInto, htop]
  exact ⟨rfl, rfl⟩

theorem enter_leave {s t u : State} {size : Word} {level : Byte} (ht : exec (.enterIwIb size level) s = .next t)
    (hu : exec .leave t = .next u) : u.reg16 .bp = s.reg16 .bp ∧ u.reg16 .sp = s.reg16 .sp := by
  obtain ⟨hw, hbp, hss⟩ := enter_frame ht
  obtain ⟨hbp', hsp'⟩ := leave_regs hu
  rw [hbp', hsp', hss, hbp]
  exact ⟨(State.holdsWord_iff _ _ _ _).mp hw, (below_add s (j := 2) le_rfl).trans (below_zero s)⟩

/-- Settles O58: each pair of instructions by its own lemma; a call leaves a state that its return undoes. -/
theorem stackRoundTrips : Obligations.StackRoundTrips := by
  refine ⟨fun _ _ _ _ _ => push_pop, fun _ _ _ => pushf_popf, fun s _ _ _ ht hu => ?_, fun s _ _ _ ht hu => ?_,
    fun s _ _ _ _ ht hu => ?_, fun s _ _ _ ht hu => ?_, fun _ _ _ => pusha_popa, fun _ _ _ _ _ => enter_leave⟩
  · cases ht; cases hu; exact (pushed_callNear s _).retNear (by simp)
  · cases ht; cases hu; exact (pushed_callNear s _).retNear (by simp)
  · cases ht; cases hu; exact (pushed_callFar s _ _).retFar (by simp)
  · cases ht; cases hu; exact (pushed_callFar s _ _).retFar (by simp)

end Sys2Proof.Machine
end

section
namespace Sys2Proof

/-! ## Each instruction is read back from its encoding (30_encoding.md R90 to R127) -/

/-- From the opcode byte on, the encoding of `i` decodes to `i`, whatever follows it. -/
def ReadsBack (isa186 : Bool) (i : Instr) : Prop :=
  ∀ rest, decodeOp isa186 (encode i ++ rest) = .ok (i, rest)

section

variable {isa186 : Bool} {op : Byte}

theorem readsBack_opIw {mk : Word → Instr} (w : Word) (henc : encode (mk w) = [op, Word.lo w, Word.hi w])
    (hop : ∀ bs, decodeOpcode isa186 op bs = opIw mk bs) : ReadsBack isa186 (mk w) := fun rest => by
  rw [henc]
  exact (hop _).trans (by simp [opIw])

theorem readsBack_opPtr {mk : Word → Word → Instr} (off sel : Word)
    (henc : encode (mk off sel) = [op, Word.lo off, Word.hi off, Word.lo sel, Word.hi sel])
    (hop : ∀ bs, decodeOpcode isa186 op bs = opPtr mk bs) : ReadsBack isa186 (mk off sel) := fun rest => by
  rw [henc]
  exact (hop _).trans (by simp [opPtr])

theorem readsBack_opIwIb {mk : Word → Byte → Instr} (w : Word) (b : Byte)
    (henc : encode (mk w b) = [op, Word.lo w, Word.hi w, b])
    (hop : ∀ bs, decodeOpcode isa186 op bs = opIwIb mk bs) : ReadsBack isa186 (mk w b) := fun rest => by
  rw [henc]
  exact (hop _).trans (by simp [opIwIb])

/-- An opcode whose decoder begins with a ModRM byte goes on with that byte's fields. -/
theorem decodeOpcode_modRM {k : ModRM → List Byte → Parse Instr}
    (hop : ∀ bs, decodeOpcode isa186 op bs = (fetchModRM bs).andThen k) (m : ModRM) (bs : List Byte) :
    decodeOpcode isa186 op (m.byte :: bs) = k m bs := by
  rw [hop, fetchModRM_byte, Parse.andThen_ok]

/-! ### An `rm` operand, and what follows its displacement -/

theorem opEb_eq_ok {mk : Eb → Instr} {m : ModRM} {e : Eb} {bs rest : List Byte} (h : decodeEb m bs = .ok (e, rest)) :
    opEb mk m bs = .ok (mk e, rest) := by rw [opEb, h]; rfl

theorem opEw_eq_ok {mk : Ew → Instr} {m : ModRM} {e : Ew} {bs rest : List Byte} (h : decodeEw m bs = .ok (e, rest)) :
    opEw mk m bs = .ok (mk e, rest) := by rw [opEw, h]; rfl

theorem opEbIb_eq_ok {mk : Eb → Byte → Instr} {m : ModRM} {e : Eb} {b : Byte} {bs rest : List Byte}
    (h : decodeEb m bs = .ok (e, b :: rest)) : opEbIb mk m bs = .ok (mk e b, rest) := by rw [opEbIb, h]; rfl

theorem opEwIb_eq_ok {mk : Ew → Byte → Instr} {m : ModRM} {e : Ew} {b : Byte} {bs rest : List Byte}
    (h : decodeEw m bs = .ok (e, b :: rest)) : opEwIb mk m bs = .ok (mk e b, rest) := by rw [opEwIb, h]; rfl

theorem opEwIw_eq_ok {mk : Ew → Word → Instr} {m : ModRM} {e : Ew} {w : Word} {bs rest : List Byte}
    (h : decodeEw m bs = .ok (e, Word.lo w :: Word.hi w :: rest)) : opEwIw mk m bs = .ok (mk e w, rest) := by
  rw [opEwIw, h]; simp

theorem opMem_eq_ok {mk : MemForm → Instr} {m : ModRM} {f : MemForm} {bs rest : List Byte} (hm : m.mod ≠ 3#2)
    (h : decodeMem m.mod m.rm bs = .ok (f, rest)) : opMem op mk m bs = .ok (mk f, rest) := by
  rw [opMem, if_neg hm, h]; rfl

section

variable {reg : BitVec 3} {k : ModRM → List Byte → Parse Instr}

/-- An entry with an `rm` operand and the bytes `imm` of an immediate, where the decoder of its `reg` field is `parse`. -/
theorem readsBack_rm {R : Type} {bits : R → BitVec 3} {ofBits : BitVec 3 → R} {i : Instr} {e : RM R} {imm : List Byte}
    {parse : ModRM → List Byte → Parse Instr} (hbits : ∀ r, ofBits (bits r) = r) (he : e.wf = true)
    (henc : encode i = encE bits reg op e ++ imm)
    (hop : ∀ bs, decodeOpcode isa186 op bs = (fetchModRM bs).andThen k)
    (hk : ∀ mod rm, k ⟨mod, reg, rm⟩ = parse ⟨mod, reg, rm⟩)
    (hparse : ∀ m bs rest, decodeRM ofBits m bs = .ok (e, imm ++ rest) → parse m bs = .ok (i, rest)) :
    ReadsBack isa186 i := fun rest => by
  obtain ⟨⟨mod, reg, rm⟩, disp, hbytes, rfl, hdec⟩ := encE_shape hbits reg op e he
  rw [henc, hbytes, List.append_assoc]
  calc decodeOpcode isa186 op ((ModRM.mk mod reg rm).byte :: (disp ++ (imm ++ rest)))
    _ = k ⟨mod, reg, rm⟩ (disp ++ (imm ++ rest)) := decodeOpcode_modRM hop _ _
    _ = parse ⟨mod, reg, rm⟩ (disp ++ (imm ++ rest)) := congrFun (hk mod rm) _
    _ = .ok (i, rest) := hparse _ _ _ (hdec _)

theorem readsBack_opEb {mk : Eb → Instr} (e : Eb) (he : e.wf = true) (henc : encode (mk e) = encE Reg8.bits reg op e)
    (hop : ∀ bs, decodeOpcode isa186 op bs = (fetchModRM bs).andThen k)
    (hk : ∀ mod rm, k ⟨mod, reg, rm⟩ = opEb mk ⟨mod, reg, rm⟩) : ReadsBack isa186 (mk e) :=
  readsBack_rm Reg8.ofBits_bits he (henc.trans (List.append_nil _).symm) hop hk fun _ _ _ => opEb_eq_ok

theorem readsBack_opEw {mk : Ew → Instr} (e : Ew) (he : e.wf = true) (henc : encode (mk e) = encE Reg16.bits reg op e)
    (hop : ∀ bs, decodeOpcode isa186 op bs = (fetchModRM bs).andThen k)
    (hk : ∀ mod rm, k ⟨mod, reg, rm⟩ = opEw mk ⟨mod, reg, rm⟩) : ReadsBack isa186 (mk e) :=
  readsBack_rm Reg16.ofBits_bits he (henc.trans (List.append_nil _).symm) hop hk fun _ _ _ => opEw_eq_ok

theorem readsBack_opEbIb {mk : Eb → Byte → Instr} (e : Eb) (b : Byte) (he : e.wf = true)
    (henc : encode (mk e b) = encE Reg8.bits reg op e ++ [b])
    (hop : ∀ bs, decodeOpcode isa186 op bs = (fetchModRM bs).andThen k)
    (hk : ∀ mod rm, k ⟨mod, reg, rm⟩ = opEbIb mk ⟨mod, reg, rm⟩) : ReadsBack isa186 (mk e b) :=
  readsBack_rm Reg8.ofBits_bits he henc hop hk fun _ _ _ => opEbIb_eq_ok

theorem readsBack_opEwIb {mk : Ew → Byte → Instr} (e : Ew) (b : Byte) (he : e.wf = true)
    (henc : encode (mk e b) = encE Reg16.bits reg op e ++ [b])
    (hop : ∀ bs, decodeOpcode isa186 op bs = (fetchModRM bs).andThen k)
    (hk : ∀ mod rm, k ⟨mod, reg, rm⟩ = opEwIb mk ⟨mod, reg, rm⟩) : ReadsBack isa186 (mk e b) :=
  readsBack_rm Reg16.ofBits_bits he henc hop hk fun _ _ _ => opEwIb_eq_ok

theorem readsBack_opEwIw {mk : Ew → Word → Instr} (e : Ew) (w : Word) (he : e.wf = true)
    (henc : encode (mk e w) = encE Reg16.bits reg op e ++ [Word.lo w, Word.hi w])
    (hop : ∀ bs, decodeOpcode isa186 op bs = (fetchModRM bs).andThen k)
    (hk : ∀ mod rm, k ⟨mod, reg, rm⟩ = opEwIw mk ⟨mod, reg, rm⟩) : ReadsBack isa186 (mk e w) :=
  readsBack_rm Reg16.ofBits_bits he henc hop hk fun _ _ _ => opEwIw_eq_ok

theorem readsBack_opMem {mk : MemForm → Instr} (f : MemForm) (hf : f.wf = true) (henc : encode (mk f) = encM reg op f)
    (hop : ∀ bs, decodeOpcode isa186 op bs = (fetchModRM bs).andThen k)
    (hk : ∀ mod rm, k ⟨mod, reg, rm⟩ = opMem op mk ⟨mod, reg, rm⟩) : ReadsBack isa186 (mk f) := fun rest => by
  obtain ⟨⟨mod, reg, rm⟩, disp, hbytes, rfl, hmod, hdec⟩ := encM_shape reg op f hf
  rw [henc, hbytes]
  calc decodeOpcode isa186 op ((ModRM.mk mod reg rm).byte :: (disp ++ rest))
    _ = k ⟨mod, reg, rm⟩ (disp ++ rest) := decodeOpcode_modRM hop _ _
    _ = opMem op mk ⟨mod, reg, rm⟩ (disp ++ rest) := congrFun (hk mod rm) _
    _ = .ok (mk f, rest) := opMem_eq_ok hmod (hdec _)

end

/-! ### A register in the `reg` field -/

theorem readsBack_opEbGb {mk : Eb → Reg8 → Instr} (e : Eb) (g : Reg8) (he : e.wf = true)
    (henc : encode (mk e g) = encE Reg8.bits g.bits op e)
    (hop : ∀ bs, decodeOpcode isa186 op bs = opEbGb mk bs) : ReadsBack isa186 (mk e g) :=
  readsBack_opEb (mk := (mk · g)) e he henc hop fun _ _ => by simp only [Reg8.ofBits_bits]

theorem readsBack_opEwGw {mk : Ew → Reg16 → Instr} (e : Ew) (g : Reg16) (he : e.wf = true)
    (henc : encode (mk e g) = encE Reg16.bits g.bits op e)
    (hop : ∀ bs, decodeOpcode isa186 op bs = opEwGw mk bs) : ReadsBack isa186 (mk e g) :=
  readsBack_opEw (mk := (mk · g)) e he henc hop fun _ _ => by simp only [Reg16.ofBits_bits]

theorem readsBack_opGbEb {mk : Reg8 → Eb → Instr} (g : Reg8) (e : Eb) (he : e.wf = true)
    (henc : encode (mk g e) = encE Reg8.bits g.bits op e)
    (hop : ∀ bs, decodeOpcode isa186 op bs = opEbGb (fun e g => mk g e) bs) : ReadsBack isa186 (mk g e) :=
  readsBack_opEbGb (mk := fun e g => mk g e) e g he henc hop

theorem readsBack_opGwEw {mk : Reg16 → Ew → Instr} (g : Reg16) (e : Ew) (he : e.wf = true)
    (henc : encode (mk g e) = encE Reg16.bits g.bits op e)
    (hop : ∀ bs, decodeOpcode isa186 op bs = opEwGw (fun e g => mk g e) bs) : ReadsBack isa186 (mk g e) :=
  readsBack_opEwGw (mk := fun e g => mk g e) e g he henc hop

theorem readsBack_opGwM {mk : Reg16 → MemForm → Instr} (g : Reg16) (f : MemForm) (hf : f.wf = true)
    (henc : encode (mk g f) = encM g.bits op f)
    (hop : ∀ bs, decodeOpcode isa186 op bs = opGwM op mk bs) : ReadsBack isa186 (mk g f) :=
  readsBack_opMem (mk := mk g) f hf henc hop fun _ _ => by simp only [Reg16.ofBits_bits]

theorem readsBack_movEwSw (e : Ew) (sr : SReg) (he : e.wf = true) : ReadsBack isa186 (.movEwSw e sr) :=
  readsBack_opEw (mk := (.movEwSw · sr)) e he rfl (fun _ => rfl) fun _ _ => by simp only [SReg.ofBits?_bits]

theorem readsBack_imulGwEwIw (g : Reg16) (e : Ew) (w : Word) (he : e.wf = true) : ReadsBack true (.imulGwEwIw g e w) :=
  readsBack_opEwIw (mk := .imulGwEwIw g) e w he rfl (fun _ => rfl) fun _ _ => by simp only [Reg16.ofBits_bits]

theorem readsBack_imulGwEwIb (g : Reg16) (e : Ew) (b : Byte) (he : e.wf = true) : ReadsBack true (.imulGwEwIb g e b) :=
  readsBack_opEwIb (mk := .imulGwEwIb g) e b he rfl (fun _ => rfl) fun _ _ => by simp only [Reg16.ofBits_bits]

/-- ESC: three bits of the opcode and the `reg` field are kept as they stand (45_system.md R360). -/
theorem decodeOpcode_esc (n : BitVec 3) (bs : List Byte) : decodeOpcode isa186 (opPlus 0xD8#8 n) bs = opEsc n bs := by
  have hn : n ∈ [0#3, 1#3, 2#3, 3#3, 4#3, 5#3, 6#3, 7#3] := by clear * -; revert n; decide
  revert n
  simp only [List.forall_mem_cons, List.not_mem_nil, false_imp_iff, implies_true, and_true]
  exact ⟨rfl, rfl, rfl, rfl, rfl, rfl, rfl, rfl⟩

theorem readsBack_esc (n reg : BitVec 3) (e : Ew) (he : e.wf = true) : ReadsBack isa186 (.esc n reg e) :=
  readsBack_opEw (mk := .esc n reg) e he rfl (decodeOpcode_esc n) fun _ _ => rfl

/-! ### `Invalid` (R127) -/

/-- An opcode of the list of R127 is `Invalid` on its own. -/
theorem decodeOpcode_invalid1 (h : invalidOpcode isa186 op = true) (bs : List Byte) :
    decodeOpcode isa186 op bs = .ok (.invalid [op], bs) := by
  simp only [invalidOpcode, Bool.or_eq_true, Bool.and_eq_true, Bool.not_eq_true', List.contains_iff_mem, beq_iff_eq,
    List.mem_cons, List.not_mem_nil, or_false] at h
  obtain hop | ⟨rfl, hhi | hop⟩ := h
  · obtain rfl | rfl | rfl | rfl | rfl | rfl | rfl | rfl := hop <;> cases isa186 <;> rfl
  · rw [decodeOpcode, hhi]; rfl
  · obtain rfl | rfl | rfl | rfl := hop <;> rfl

/-- Where the decoder answers `Invalid` for these `mod` and `reg` fields, it does so whatever follows. -/
theorem decodeOpcode_invalid2_of_fields {modrm : Byte} {mod : BitVec 2} {reg : BitVec 3}
    {k : ModRM → List Byte → Parse Instr} (hmod : modrm.extractLsb' 6 2 = mod) (hreg : modrm.extractLsb' 3 3 = reg)
    (hop : ∀ bs, decodeOpcode isa186 op bs = (fetchModRM bs).andThen k)
    (hk : ∀ rm bs, k ⟨mod, reg, rm⟩ bs = .ok (.invalid [op, (ModRM.mk mod reg rm).byte], bs)) (bs : List Byte) :
    decodeOpcode isa186 op (modrm :: bs) = .ok (.invalid [op, modrm], bs) := by
  subst hmod hreg
  calc decodeOpcode isa186 op (modrm :: bs)
    _ = k (ModRM.ofByte modrm) bs := by rw [← decodeOpcode_modRM hop, ModRM.byte_ofByte]
    _ = .ok (.invalid [op, (ModRM.ofByte modrm).byte], bs) := hk _ bs
    _ = .ok (.invalid [op, modrm], bs) := by rw [ModRM.byte_ofByte]

/-- An opcode and a ModRM byte of the list of R127 are `Invalid`, one case per line of the list. -/
theorem decodeOpcode_invalid2 {modrm : Byte} (h : invalidModRM isa186 op modrm = true) (bs : List Byte) :
    decodeOpcode isa186 op (modrm :: bs) = .ok (.invalid [op, modrm], bs) := by
  simp only [invalidModRM, Bool.or_eq_true, Bool.and_eq_true, List.contains_iff_mem, beq_iff_eq, bne_iff_ne,
    List.mem_cons, List.not_mem_nil, or_false, or_assoc, and_assoc] at h
  obtain ⟨rfl, hreg⟩ | ⟨rfl, hreg⟩ | ⟨hop, hmod⟩ | ⟨rfl, rfl, hmod⟩ | ⟨hop, hreg⟩ | ⟨hop, hreg⟩ |
    ⟨rfl, hop, hreg⟩ | ⟨hop, hreg⟩ | ⟨rfl, hreg⟩ | ⟨rfl, hreg⟩ | ⟨rfl, hreg, hmod⟩ := h
  · obtain h | h | h | h := hreg <;>
      exact decodeOpcode_invalid2_of_fields rfl h (fun _ => rfl) (fun _ _ => rfl) bs
  · obtain h | h | h | h | h := hreg <;>
      exact decodeOpcode_invalid2_of_fields rfl h (fun _ => rfl) (fun _ _ => rfl) bs
  · obtain rfl | rfl | rfl := hop <;>
      exact decodeOpcode_invalid2_of_fields hmod rfl (fun _ => rfl) (fun _ _ => rfl) bs
  · exact decodeOpcode_invalid2_of_fields hmod rfl (fun _ => rfl) (fun _ _ => rfl) bs
  · obtain rfl | rfl | rfl := hop <;>
      exact decodeOpcode_invalid2_of_fields rfl rfl (fun _ => rfl) (fun _ _ => if_neg hreg) bs
  · obtain rfl | rfl | rfl | rfl := hop <;>
      exact decodeOpcode_invalid2_of_fields rfl hreg (fun _ => rfl) (fun _ _ => rfl) bs
  · obtain rfl | rfl := hop <;>
      exact decodeOpcode_invalid2_of_fields rfl hreg (fun _ => rfl) (fun _ _ => rfl) bs
  · obtain rfl | rfl := hop <;>
      exact decodeOpcode_invalid2_of_fields rfl hreg (fun _ => rfl) (fun _ _ => rfl) bs
  · obtain h | h | h | h | h | h := hreg <;>
      exact decodeOpcode_invalid2_of_fields rfl h (fun _ => rfl) (fun _ _ => rfl) bs
  · exact decodeOpcode_invalid2_of_fields rfl hreg (fun _ => rfl) (fun _ _ => rfl) bs
  · obtain h | h := hreg <;>
      exact decodeOpcode_invalid2_of_fields hmod h (fun _ => rfl) (fun _ _ => rfl) bs

theorem readsBack_invalid {raw : List Byte} (h : invalidRaw isa186 raw = true) (hr : runawayRaw raw = false) :
    ReadsBack isa186 (.invalid raw) := fun rest => by
  match raw, h with
  | [op], h => exact decodeOpcode_invalid1 h rest
  | [op, modrm], h => exact decodeOpcode_invalid2 h rest
  | [], h => exact absurd (h.symm.trans hr) nofun
  | _ :: _ :: _ :: _, h => exact absurd (h.symm.trans hr) nofun

/-- Well formed is: the machine has the row, and its operands are well formed (R102, R380). -/
theorem Instr.wf_iff {isa186 : Bool} {i : Instr} :
    i.wf isa186 = true ↔ (i.is186 = true → isa186 = true) ∧ i.operandsWf isa186 = true := by
  rw [Instr.wf]
  cases i.is186 <;> simp

/-- Where a machine has the instruction and it is none of the bytes of R94, one case per entry of the opcode map: the
shape of the entry (`readsBack_opEbGb`, …), which those without operands and with one byte meet by computation. -/
theorem readsBack_of_wf {isa186 : Bool} {i : Instr} (hwf : i.wf isa186 = true) (hp : i.isPrefix = false)
    (hr : i.isRunaway = false) : ReadsBack isa186 i := by
  obtain ⟨h186, ho⟩ := Instr.wf_iff.mp hwf
  cases i
  case addEbGb e g | orEbGb e g | adcEbGb e g | sbbEbGb e g | andEbGb e g | subEbGb e g | xorEbGb e g |
    cmpEbGb e g | testEbGb e g | movEbGb e g | xchgEbGb e g =>
    exact readsBack_opEbGb e g ho rfl fun _ => rfl
  case addEwGw e g | orEwGw e g | adcEwGw e g | sbbEwGw e g | andEwGw e g | subEwGw e g | xorEwGw e g |
    cmpEwGw e g | testEwGw e g | movEwGw e g | xchgEwGw e g =>
    exact readsBack_opEwGw e g ho rfl fun _ => rfl
  case addGbEb g e | orGbEb g e | adcGbEb g e | sbbGbEb g e | andGbEb g e | subGbEb g e | xorGbEb g e |
    cmpGbEb g e | movGbEb g e =>
    exact readsBack_opGbEb g e ho rfl fun _ => rfl
  case addGwEw g e | orGwEw g e | adcGwEw g e | sbbGwEw g e | andGwEw g e | subGwEw g e | xorGwEw g e |
    cmpGwEw g e | movGwEw g e =>
    exact readsBack_opGwEw g e ho rfl fun _ => rfl
  case addAxIw w | orAxIw w | adcAxIw w | sbbAxIw w | andAxIw w | subAxIw w | xorAxIw w | cmpAxIw w | testAxIw w |
    movAlMoffs w | movAxMoffs w | movMoffsAl w | movMoffsAx w | jmpCw w | callCw w | retIw w | retfIw w =>
    exact readsBack_opIw w rfl fun _ => rfl
  case addEbIb e b | orEbIb e b | adcEbIb e b | sbbEbIb e b | andEbIb e b | subEbIb e b | xorEbIb e b |
    cmpEbIb e b | testEbIb e b | movEbIb e b =>
    exact readsBack_opEbIb e b ho rfl (fun _ => rfl) fun _ _ => rfl
  case addEwIw e w | orEwIw e w | adcEwIw e w | sbbEwIw e w | andEwIw e w | subEwIw e w | xorEwIw e w |
    cmpEwIw e w | testEwIw e w | movEwIw e w =>
    exact readsBack_opEwIw e w ho rfl (fun _ => rfl) fun _ _ => rfl
  case addEwIb e b | orEwIb e b | adcEwIb e b | sbbEwIb e b | andEwIb e b | subEwIb e b | xorEwIb e b |
    cmpEwIb e b =>
    exact readsBack_opEwIb e b ho rfl (fun _ => rfl) fun _ _ => rfl
  case incR16 r | decR16 r | pushR16 r | popR16 r | movR8Ib r _ =>
    cases r <;> exact fun _ => rfl
  case incEb e | decEb e | negEb e | mulEb e | imulEb e | divEb e | idivEb e | notEb e | rolEb1 e | rolEbCl e |
    rorEb1 e | rorEbCl e | rclEb1 e | rclEbCl e | rcrEb1 e | rcrEbCl e | shlEb1 e | shlEbCl e | shrEb1 e |
    shrEbCl e | sarEb1 e | sarEbCl e =>
    exact readsBack_opEb e ho rfl (fun _ => rfl) fun _ _ => rfl
  case incEw e | decEw e | negEw e | mulEw e | imulEw e | divEw e | idivEw e | notEw e | rolEw1 e | rolEwCl e |
    rorEw1 e | rorEwCl e | rclEw1 e | rclEwCl e | rcrEw1 e | rcrEwCl e | shlEw1 e | shlEwCl e | shrEw1 e |
    shrEwCl e | sarEw1 e | sarEwCl e | movEsEw e | movSsEw e | movDsEw e | pushEw e | popEw e | jmpEw e |
    callEw e =>
    exact readsBack_opEw e ho rfl (fun _ => rfl) fun _ _ => rfl
  case rolEbIb e b | rorEbIb e b | rclEbIb e b | rcrEbIb e b | shlEbIb e b | shrEbIb e b | sarEbIb e b =>
    obtain rfl := h186 rfl
    exact readsBack_opEbIb e b ho rfl (fun _ => rfl) fun _ _ => rfl
  case rolEwIb e b | rorEwIb e b | rclEwIb e b | rcrEwIb e b | shlEwIb e b | shrEwIb e b | sarEwIb e b =>
    obtain rfl := h186 rfl
    exact readsBack_opEwIb e b ho rfl (fun _ => rfl) fun _ _ => rfl
  case movR16Iw r w =>
    cases r <;> exact readsBack_opIw w rfl fun _ => rfl
  case movEwSw e sr =>
    exact readsBack_movEwSw e sr ho
  case leaGwM g m | ldsGwM g m | lesGwM g m =>
    exact readsBack_opGwM g m ho rfl fun _ => rfl
  case jmpFar off sel | callFar off sel =>
    exact readsBack_opPtr off sel rfl fun _ => rfl
  case jmpM m | callM m =>
    exact readsBack_opMem m ho rfl (fun _ => rfl) fun _ _ => rfl
  case esc op reg e =>
    exact readsBack_esc op reg e ho
  case segEs | segCs | segSs | segDs | lock | repne | rep =>
    cases hp
  case invalid raw =>
    exact readsBack_invalid ho hr
  case pusha | popa | pushIb b | insb | insw | outsb | outsw | leave =>
    obtain rfl := h186 rfl
    exact fun _ => rfl
  case boundGwM g m =>
    obtain rfl := h186 rfl
    exact readsBack_opGwM g m ho rfl fun _ => rfl
  case pushIw w =>
    obtain rfl := h186 rfl
    exact readsBack_opIw w rfl fun _ => rfl
  case imulGwEwIw g e w =>
    obtain rfl := h186 rfl
    exact readsBack_imulGwEwIw g e w ho
  case imulGwEwIb g e b =>
    obtain rfl := h186 rfl
    exact readsBack_imulGwEwIb g e b ho
  case enterIwIb size level =>
    obtain rfl := h186 rfl
    exact readsBack_opIwIb size level rfl fun _ => rfl
  all_goals exact fun _ => rfl

end

/-! ## The whole instruction -/

/-- A run of bytes of R94 is spelled by the prefixes they are. -/
theorem exists_prefixes {raw : List Byte} (h : raw.all isPrefixByte = true) :
    ∃ ps : List Prefix, raw = ps.map Prefix.byte := by
  induction raw with
  | nil => exact ⟨[], rfl⟩
  | cons b bs ih =>
    obtain ⟨hb, hbs⟩ := List.forall_mem_cons.mp (List.all_eq_true.mp h)
    obtain ⟨ps, rfl⟩ := ih (List.all_eq_true.mpr hbs)
    obtain ⟨p, hp⟩ := Option.isSome_iff_exists.mp ((isPrefixByte_iff b).symm.trans hb)
    exact ⟨p :: ps, by rw [List.map_cons, Prefix.byte_of_ofByte? hp]⟩

/-- `MAX_PREFIX` + 1 bytes of R94 in a row are one `Invalid` (R127). -/
theorem decode_runaway (isa186 : Bool) (ps : List Prefix) (rest : List Byte) (h : ps.length = Config.maxPrefix + 1) :
    decode isa186 (ps.map Prefix.byte ++ rest) = .ok (⟨[], .invalid (ps.map Prefix.byte)⟩, rest) := by
  obtain ⟨qs, q, rfl⟩ : ∃ qs q, ps = qs ++ [q] :=
    ⟨ps.dropLast, ps.getLast (List.ne_nil_of_length_eq_add_one h), (List.dropLast_append_getLast _).symm⟩
  have hq : qs.length = Config.maxPrefix := by simpa using h
  rw [List.map_append, List.append_assoc, decode, decodeFrom_prefixes isa186 qs [] _ (by simp [hq])]
  simp [decodeFrom, hq]

/-- The four conditions on a whole instruction (R90, R127). -/
theorem Decoded.wf_iff {isa186 : Bool} {d : Decoded} : d.wf isa186 = true ↔ d.op.wf isa186 = true ∧
    d.op.isPrefix = false ∧ d.prefixes.length ≤ Config.maxPrefix ∧ (d.op.isRunaway = false ∨ d.prefixes = []) := by
  simp [Decoded.wf, and_assoc]

/-- The opcodes of the bytes of R94 read as their own rows. -/
theorem decodeOpcode_prefixByte (isa186 : Bool) (p : Prefix) (bs : List Byte) :
    decodeOpcode isa186 p.byte bs = .ok (p.instr, bs) := by cases p <;> rfl

theorem Prefix.isPrefix_instr (p : Prefix) : p.instr.isPrefix = true := by cases p <;> rfl

/-- The first byte of an encoding that reads back is an opcode, and none of R94's unless the instruction is one. -/
theorem ReadsBack.exists_cons {isa186 : Bool} {i : Instr} (h : ReadsBack isa186 i) (hp : i.isPrefix = false) :
    ∃ op tail, encode i = op :: tail ∧ Prefix.ofByte? op = none ∧
      ∀ rest, decodeOpcode isa186 op (tail ++ rest) = .ok (i, rest) := by
  unfold ReadsBack at h
  cases henc : encode i with
  | nil => simpa [henc, decodeOp, fetch8, Parse.andThen] using h []
  | cons op tail =>
    have hdec : ∀ rest, decodeOpcode isa186 op (tail ++ rest) = .ok (i, rest) := by simpa [henc, decodeOp] using h
    refine ⟨op, tail, rfl, ?_, hdec⟩
    cases hop : Prefix.ofByte? op with
    | none => rfl
    | some p =>
      have hrow := decodeOpcode_prefixByte isa186 p (tail ++ [])
      rw [Prefix.byte_of_ofByte? hop, hdec []] at hrow
      obtain ⟨rfl, -⟩ := Prod.mk.inj (Except.ok.inj hrow)
      exact absurd hp (by simp [p.isPrefix_instr])

theorem exists_prefixes_of_isRunaway {i : Instr} (h : i.isRunaway = true) :
    ∃ ps : List Prefix, ps.length = Config.maxPrefix + 1 ∧ i = .invalid (ps.map Prefix.byte) := by
  unfold Instr.isRunaway at h
  split at h
  case h_1 raw =>
    simp only [runawayRaw, Bool.and_eq_true, beq_iff_eq] at h
    obtain ⟨hlen, hall⟩ := h
    obtain ⟨ps, rfl⟩ := exists_prefixes hall
    exact ⟨ps, by simpa using hlen, rfl⟩
  case h_2 => cases h

/-- Settles O2: the bytes of R94 are consumed one by one (`decode_prefixes`), and from the opcode on each instruction
is read back (`readsBack_of_wf`); the run of bytes of R94 that is itself `Invalid` stands apart (`decode_runaway`). -/
theorem decodeInvertsEncode : Obligations.DecodeInvertsEncode := by
  rintro isa186 ⟨ps, i⟩ rest h
  obtain ⟨hwf, hp, hlen, hrun⟩ := Decoded.wf_iff.mp h
  cases hr : i.isRunaway with
  | false =>
    obtain ⟨op, tail, henc, hop, hdec⟩ := (readsBack_of_wf hwf hp hr).exists_cons hp
    rw [Decoded.bytes, henc, List.append_assoc, List.cons_append, decode_prefixes isa186 ps op _ hlen hop, hdec,
      Parse.andThen_ok]
  | true =>
    obtain ⟨qs, hqs, rfl⟩ := exists_prefixes_of_isRunaway hr
    obtain rfl : ps = [] := hrun.resolve_left (by simp [hr])
    exact decode_runaway isa186 qs rest hqs
end Sys2Proof
end

section
namespace Sys2Proof

/-! ## What is decoded is well formed (30_encoding.md R102, R127, R380) -/

/-- Whatever `f` answers has the property `P`. -/
def Yields {α : Type} (P : α → Bool) (f : List Byte → Parse α) : Prop :=
  ∀ bs a rest, f bs = .ok (a, rest) → P a = true

section Pieces

variable {α β : Type} {P : α → Bool} {Q : β → Bool}

theorem Yields.ok {a : α} (h : P a = true) : Yields P (fun bs => .ok (a, bs)) := by
  rintro bs _ rest ⟨⟩
  exact h

theorem Yields.andThen {f : List Byte → Parse α} {g : α → List Byte → Parse β} (hf : Yields P f)
    (hg : ∀ a, P a = true → Yields Q (g a)) : Yields Q (fun bs => (f bs).andThen g) := by
  intro bs b rest h
  obtain ⟨a, mid, ha, hb⟩ := Parse.andThen_eq_ok h
  exact hg a (hf bs a mid ha) mid b rest hb

theorem Yields.any {f : List Byte → Parse α} : Yields (fun _ => true) f := fun _ _ _ _ => rfl

theorem Yields.ite {c : Prop} [Decidable c] {f g : List Byte → Parse α} (hf : c → Yields P f)
    (hg : ¬c → Yields P g) : Yields P (fun bs => if c then f bs else g bs) := by
  by_cases h : c
  · simpa [h] using hf h
  · simpa [h] using hg h

end Pieces

theorem yields_decodeMem (mod : BitVec 2) (rm : BitVec 3) : Yields MemForm.wf (decodeMem mod rm) := by
  refine .ite (fun _ => .ite (fun _ => Yields.any.andThen fun d _ => .ok rfl) fun h6 => .ok ?_) fun _ =>
    .ite (fun _ => Yields.any.andThen fun d _ => .ok rfl) fun _ => Yields.any.andThen fun d _ => .ok rfl
  clear * - h6; revert rm; decide

theorem yields_decodeRM {R : Type} (ofBits : BitVec 3 → R) (m : ModRM) : Yields RM.wf (decodeRM ofBits m) :=
  .ite (fun _ => .ok rfl) fun _ => (yields_decodeMem m.mod m.rm).andThen fun _ hf => .ok hf

section Shapes

variable {P : Instr → Bool} {op : Byte} {m : ModRM}

theorem yields_op0 {i : Instr} (h : P i = true) : Yields P (op0 i) := .ok h

theorem yields_opIb {mk : Byte → Instr} (h : ∀ b, P (mk b) = true) : Yields P (opIb mk) :=
  Yields.any.andThen fun b _ => .ok (h b)

theorem yields_opIw {mk : Word → Instr} (h : ∀ w, P (mk w) = true) : Yields P (opIw mk) :=
  Yields.any.andThen fun w _ => .ok (h w)

theorem yields_opPtr {mk : Word → Word → Instr} (h : ∀ off sel, P (mk off sel) = true) : Yields P (opPtr mk) :=
  Yields.any.andThen fun off _ => Yields.any.andThen fun sel _ => .ok (h off sel)

theorem yields_opIwIb {mk : Word → Byte → Instr} (h : ∀ w b, P (mk w b) = true) : Yields P (opIwIb mk) :=
  Yields.any.andThen fun w _ => Yields.any.andThen fun b _ => .ok (h w b)

theorem yields_opEb {mk : Eb → Instr} (h : ∀ e, e.wf = true → P (mk e) = true) : Yields P (opEb mk m) :=
  (yields_decodeRM Reg8.ofBits m).andThen fun e he => .ok (h e he)

theorem yields_opEw {mk : Ew → Instr} (h : ∀ e, e.wf = true → P (mk e) = true) : Yields P (opEw mk m) :=
  (yields_decodeRM Reg16.ofBits m).andThen fun e he => .ok (h e he)

theorem yields_opEbIb {mk : Eb → Byte → Instr} (h : ∀ e b, e.wf = true → P (mk e b) = true) : Yields P (opEbIb mk m) :=
  (yields_decodeRM Reg8.ofBits m).andThen fun e he => Yields.any.andThen fun b _ => .ok (h e b he)

theorem yields_opEwIb {mk : Ew → Byte → Instr} (h : ∀ e b, e.wf = true → P (mk e b) = true) : Yields P (opEwIb mk m) :=
  (yields_decodeRM Reg16.ofBits m).andThen fun e he => Yields.any.andThen fun b _ => .ok (h e b he)

theorem yields_opEwIw {mk : Ew → Word → Instr} (h : ∀ e w, e.wf = true → P (mk e w) = true) : Yields P (opEwIw mk m) :=
  (yields_decodeRM Reg16.ofBits m).andThen fun e he => Yields.any.andThen fun w _ => .ok (h e w he)

theorem yields_modRM {g : ModRM → List Byte → Parse Instr} (hg : ∀ m, Yields P (g m)) :
    Yields P (fun bs => (fetchModRM bs).andThen g) :=
  Yields.any.andThen fun m _ => hg m

theorem yields_opEbGb {mk : Eb → Reg8 → Instr} (h : ∀ e g, e.wf = true → P (mk e g) = true) : Yields P (opEbGb mk) :=
  yields_modRM fun _ => yields_opEb fun e he => h e _ he

theorem yields_opEwGw {mk : Ew → Reg16 → Instr} (h : ∀ e g, e.wf = true → P (mk e g) = true) : Yields P (opEwGw mk) :=
  yields_modRM fun _ => yields_opEw fun e he => h e _ he

theorem yields_opGbEb {mk : Reg8 → Eb → Instr} (h : ∀ g e, e.wf = true → P (mk g e) = true) :
    Yields P (opEbGb fun e g => mk g e) :=
  yields_opEbGb fun e g => h g e

theorem yields_opGwEw {mk : Reg16 → Ew → Instr} (h : ∀ g e, e.wf = true → P (mk g e) = true) :
    Yields P (opEwGw fun e g => mk g e) :=
  yields_opEwGw fun e g => h g e

end Shapes

section Map

variable {isa186 : Bool}

/-- A row of every machine is well formed when its operands are (R380). -/
theorem wf_of_8086 {i : Instr} (h : i.is186 = false) (ho : i.operandsWf isa186 = true) : i.wf isa186 = true :=
  Instr.wf_iff.mpr ⟨fun h186 => absurd (h186.symm.trans h) nofun, ho⟩

theorem yields_invalid2 {op : Byte} {reg : BitVec 3} {mod : BitVec 2} {rm : BitVec 3}
    (h : ∀ mod rm, invalidModRM isa186 op (ModRM.mk mod reg rm).byte = true) :
    Yields (Instr.wf isa186) (invalid2 op ⟨mod, reg, rm⟩) :=
  .ok (wf_of_8086 rfl (h mod rm))

theorem yields_opMem {op : Byte} {reg : BitVec 3} {mod : BitVec 2} {rm : BitVec 3} {mk : MemForm → Instr}
    (hreg : ∀ rm, invalidModRM isa186 op (ModRM.mk 3#2 reg rm).byte = true)
    (hmem : ∀ f, f.wf = true → (mk f).wf isa186 = true) : Yields (Instr.wf isa186) (opMem op mk ⟨mod, reg, rm⟩) := by
  refine .ite (fun h => ?_) fun _ => (yields_decodeMem mod rm).andThen fun f hf => .ok (hmem f hf)
  obtain rfl : mod = 3#2 := h
  exact .ok (wf_of_8086 rfl (hreg rm))

theorem yields_opGwM {op : Byte} {mk : Reg16 → MemForm → Instr}
    (hreg : ∀ reg rm, invalidModRM isa186 op (ModRM.mk 3#2 reg rm).byte = true)
    (hmem : ∀ g f, f.wf = true → (mk g f).wf isa186 = true) : Yields (Instr.wf isa186) (opGwM op mk) :=
  yields_modRM fun ⟨_, reg, _⟩ => yields_opMem (hreg reg) (hmem _)

theorem yields_opEsc {n : BitVec 3} : Yields (Instr.wf isa186) (opEsc n) :=
  yields_modRM fun _ => yields_opEw fun _ h => wf_of_8086 rfl h

theorem yields_opImulIw : Yields (Instr.wf true) opImulIw := yields_modRM fun _ => yields_opEwIw fun _ _ h => h

theorem yields_opImulIb : Yields (Instr.wf true) opImulIb := yields_modRM fun _ => yields_opEwIb fun _ _ h => h

/-! ### The groups (R126): one case per `reg` field -/

theorem yields_group1Eb : Yields (Instr.wf isa186) group1Eb := by
  refine yields_modRM ?_
  apply forall_modRM_reg <;> exact fun _ _ => yields_opEbIb fun _ _ h => wf_of_8086 rfl h

theorem yields_group1EwIw : Yields (Instr.wf isa186) group1EwIw := by
  refine yields_modRM ?_
  apply forall_modRM_reg <;> exact fun _ _ => yields_opEwIw fun _ _ h => wf_of_8086 rfl h

theorem yields_group1EwIb : Yields (Instr.wf isa186) group1EwIb := by
  refine yields_modRM ?_
  apply forall_modRM_reg <;> exact fun _ _ => yields_opEwIb fun _ _ h => wf_of_8086 rfl h

theorem yields_group2Eb1 : Yields (Instr.wf isa186) group2Eb1 := by
  refine yields_modRM ?_
  apply forall_modRM_reg
  case h6 => exact fun _ _ => yields_invalid2 (by revert isa186; decide)
  all_goals exact fun _ _ => yields_opEb fun _ h => wf_of_8086 rfl h

theorem yields_group2Ew1 : Yields (Instr.wf isa186) group2Ew1 := by
  refine yields_modRM ?_
  apply forall_modRM_reg
  case h6 => exact fun _ _ => yields_invalid2 (by revert isa186; decide)
  all_goals exact fun _ _ => yields_opEw fun _ h => wf_of_8086 rfl h

theorem yields_group2EbCl : Yields (Instr.wf isa186) group2EbCl := by
  refine yields_modRM ?_
  apply forall_modRM_reg
  case h6 => exact fun _ _ => yields_invalid2 (by revert isa186; decide)
  all_goals exact fun _ _ => yields_opEb fun _ h => wf_of_8086 rfl h

theorem yields_group2EwCl : Yields (Instr.wf isa186) group2EwCl := by
  refine yields_modRM ?_
  apply forall_modRM_reg
  case h6 => exact fun _ _ => yields_invalid2 (by revert isa186; decide)
  all_goals exact fun _ _ => yields_opEw fun _ h => wf_of_8086 rfl h

theorem yields_group2EbIb : Yields (Instr.wf true) group2EbIb := by
  refine yields_modRM ?_
  apply forall_modRM_reg
  case h6 => exact fun _ _ => yields_invalid2 (by decide)
  all_goals exact fun _ _ => yields_opEbIb fun _ _ h => h

theorem yields_group2EwIb : Yields (Instr.wf true) group2EwIb := by
  refine yields_modRM ?_
  apply forall_modRM_reg
  case h6 => exact fun _ _ => yields_invalid2 (by decide)
  all_goals exact fun _ _ => yields_opEwIb fun _ _ h => h

theorem yields_group3Eb : Yields (Instr.wf isa186) group3Eb := by
  refine yields_modRM ?_
  apply forall_modRM_reg
  case h0 => exact fun _ _ => yields_opEbIb fun _ _ h => wf_of_8086 rfl h
  case h1 => exact fun _ _ => yields_invalid2 (by revert isa186; decide)
  all_goals exact fun _ _ => yields_opEb fun _ h => wf_of_8086 rfl h

theorem yields_group3Ew : Yields (Instr.wf isa186) group3Ew := by
  refine yields_modRM ?_
  apply forall_modRM_reg
  case h0 => exact fun _ _ => yields_opEwIw fun _ _ h => wf_of_8086 rfl h
  case h1 => exact fun _ _ => yields_invalid2 (by revert isa186; decide)
  all_goals exact fun _ _ => yields_opEw fun _ h => wf_of_8086 rfl h

theorem yields_group4 : Yields (Instr.wf isa186) group4 := by
  refine yields_modRM ?_
  apply forall_modRM_reg
  case h0 | h1 => exact fun _ _ => yields_opEb fun _ h => wf_of_8086 rfl h
  all_goals exact fun _ _ => yields_invalid2 (by revert isa186; decide)

theorem yields_group5 : Yields (Instr.wf isa186) group5 := by
  refine yields_modRM ?_
  apply forall_modRM_reg
  case h3 | h5 => exact fun _ _ => yields_opMem (by revert isa186; decide) fun _ h => wf_of_8086 rfl h
  case h7 => exact fun _ _ => yields_invalid2 (by revert isa186; decide)
  all_goals exact fun _ _ => yields_opEw fun _ h => wf_of_8086 rfl h

theorem yields_movFromSReg : Yields (Instr.wf isa186) movFromSReg := by
  refine yields_modRM ?_
  apply forall_modRM_reg
  case h4 | h5 | h6 | h7 => exact fun _ _ => yields_invalid2 (by revert isa186; decide)
  all_goals exact fun _ _ => yields_opEw fun _ h => wf_of_8086 rfl h

theorem yields_movToSReg : Yields (Instr.wf isa186) movToSReg := by
  refine yields_modRM ?_
  apply forall_modRM_reg
  case h0 | h2 | h3 => exact fun _ _ => yields_opEw fun _ h => wf_of_8086 rfl h
  all_goals exact fun _ _ => yields_invalid2 (by revert isa186; decide)

theorem yields_group8F : Yields (Instr.wf isa186) group8F := by
  refine yields_modRM ?_
  apply forall_modRM_reg
  case h0 => exact fun _ _ => yields_opEw fun _ h => wf_of_8086 rfl h
  all_goals exact fun _ _ => yields_invalid2 (by revert isa186; decide)

theorem yields_groupC6 : Yields (Instr.wf isa186) groupC6 := by
  refine yields_modRM ?_
  apply forall_modRM_reg
  case h0 => exact fun _ _ => yields_opEbIb fun _ _ h => wf_of_8086 rfl h
  all_goals exact fun _ _ => yields_invalid2 (by revert isa186; decide)

theorem yields_groupC7 : Yields (Instr.wf isa186) groupC7 := by
  refine yields_modRM ?_
  apply forall_modRM_reg
  case h0 => exact fun _ _ => yields_opEwIw fun _ _ h => wf_of_8086 rfl h
  all_goals exact fun _ _ => yields_invalid2 (by revert isa186; decide)

/-! ### The opcode map -/

/-- An opcode that is `Invalid` only on a machine without the 186 rows is on the other one otherwise (R380). -/
theorem isa186_of_invalidOpcode_false {op : Byte} (hop : invalidOpcode false op = true)
    (h : invalidOpcode isa186 op = false) : isa186 = true := by
  cases isa186
  · exact (hop.symm.trans h).symm
  · rfl

/-- Where the opcode is not `Invalid`, one case per operand shape of the opcode map (R110 to R125): the case `h8.hD` is
opcode 8D. -/
theorem yields_decodeOpcode_nibbles : ∀ hi lo : BitVec 4, invalidOpcode isa186 (hi ++ lo) = false →
    Yields (Instr.wf isa186) (decodeOpcode isa186 (hi ++ lo)) := by
  apply forall_nibble <;> apply forall_nibble
  all_goals intro h
  case h0.h0 | h0.h8 | h1.h0 | h1.h8 | h2.h0 | h2.h8 | h3.h0 | h3.h8 | h8.h4 | h8.h6 | h8.h8 =>
    refine yields_opEbGb ?_
    exact fun _ _ h => wf_of_8086 rfl h
  case h0.h1 | h0.h9 | h1.h1 | h1.h9 | h2.h1 | h2.h9 | h3.h1 | h3.h9 | h8.h5 | h8.h7 | h8.h9 =>
    refine yields_opEwGw ?_
    exact fun _ _ h => wf_of_8086 rfl h
  case h0.h2 | h0.hA | h1.h2 | h1.hA | h2.h2 | h2.hA | h3.h2 | h3.hA | h8.hA =>
    refine yields_opGbEb ?_
    exact fun _ _ h => wf_of_8086 rfl h
  case h0.h3 | h0.hB | h1.h3 | h1.hB | h2.h3 | h2.hB | h3.h3 | h3.hB | h8.hB =>
    refine yields_opGwEw ?_
    exact fun _ _ h => wf_of_8086 rfl h
  case h0.h4 | h0.hC | h1.h4 | h1.hC | h2.h4 | h2.hC | h3.h4 | h3.hC | h7.h0 | h7.h1 | h7.h2 | h7.h3 | h7.h4 |
    h7.h5 | h7.h6 | h7.h7 | h7.h8 | h7.h9 | h7.hA | h7.hB | h7.hC | h7.hD | h7.hE | h7.hF | hA.h8 | hB.h0 | hB.h1 |
    hB.h2 | hB.h3 | hB.h4 | hB.h5 | hB.h6 | hB.h7 | hC.hD | hD.h4 | hD.h5 | hE.h0 | hE.h1 | hE.h2 | hE.h3 | hE.h4 |
    hE.h5 | hE.h6 | hE.h7 | hE.hB =>
    refine yields_opIb ?_
    exact fun _ => wf_of_8086 rfl rfl
  case h0.h5 | h0.hD | h1.h5 | h1.hD | h2.h5 | h2.hD | h3.h5 | h3.hD | hA.h0 | hA.h1 | hA.h2 | hA.h3 | hA.h9 |
    hB.h8 | hB.h9 | hB.hA | hB.hB | hB.hC | hB.hD | hB.hE | hB.hF | hC.h2 | hC.hA | hE.h8 | hE.h9 =>
    refine yields_opIw ?_
    exact fun _ => wf_of_8086 rfl rfl
  case h6.h0 | h6.h1 | h6.hC | h6.hD | h6.hE | h6.hF | hC.h9 =>
    obtain rfl := isa186_of_invalidOpcode_false rfl h
    refine yields_op0 ?_
    rfl
  case h6.h2 =>
    obtain rfl := isa186_of_invalidOpcode_false rfl h
    refine yields_opGwM (by decide) ?_
    exact fun _ _ h => h
  case h6.h8 =>
    obtain rfl := isa186_of_invalidOpcode_false rfl h
    refine yields_opIw ?_
    exact fun _ => rfl
  case h6.h9 =>
    obtain rfl := isa186_of_invalidOpcode_false rfl h
    exact yields_opImulIw
  case h6.hA =>
    obtain rfl := isa186_of_invalidOpcode_false rfl h
    refine yields_opIb ?_
    exact fun _ => rfl
  case h6.hB =>
    obtain rfl := isa186_of_invalidOpcode_false rfl h
    exact yields_opImulIb
  case h8.h0 | h8.h2 => exact yields_group1Eb
  case h8.h1 => exact yields_group1EwIw
  case h8.h3 => exact yields_group1EwIb
  case h8.hC => exact yields_movFromSReg
  case h8.hD | hC.h4 | hC.h5 =>
    refine yields_opGwM (by revert isa186; decide) ?_
    exact fun _ _ h => wf_of_8086 rfl h
  case h8.hE => exact yields_movToSReg
  case h8.hF => exact yields_group8F
  case h9.hA | hE.hA =>
    refine yields_opPtr ?_
    exact fun _ _ => wf_of_8086 rfl rfl
  case hC.h0 =>
    obtain rfl := isa186_of_invalidOpcode_false rfl h
    exact yields_group2EbIb
  case hC.h1 =>
    obtain rfl := isa186_of_invalidOpcode_false rfl h
    exact yields_group2EwIb
  case hC.h6 => exact yields_groupC6
  case hC.h7 => exact yields_groupC7
  case hC.h8 =>
    obtain rfl := isa186_of_invalidOpcode_false rfl h
    refine yields_opIwIb ?_
    exact fun _ _ => rfl
  case hD.h0 => exact yields_group2Eb1
  case hD.h1 => exact yields_group2Ew1
  case hD.h2 => exact yields_group2EbCl
  case hD.h3 => exact yields_group2EwCl
  case hD.h8 | hD.h9 | hD.hA | hD.hB | hD.hC | hD.hD | hD.hE | hD.hF =>
    exact yields_opEsc
  case hF.h6 => exact yields_group3Eb
  case hF.h7 => exact yields_group3Ew
  case hF.hE => exact yields_group4
  case hF.hF => exact yields_group5
  case h0.hF | hD.h6 | hF.h1 | h6.h3 | h6.h4 | h6.h5 | h6.h6 | h6.h7 => cases h
  all_goals
    refine yields_op0 ?_
    exact wf_of_8086 rfl rfl

end Map

/-- From the opcode byte on, what is decoded is well formed. -/
theorem yields_decodeOpcode (isa186 : Bool) (op : Byte) : Yields (Instr.wf isa186) (decodeOpcode isa186 op) := by
  cases hinv : invalidOpcode isa186 op with
  | true =>
    intro bs i rest h
    cases (decodeOpcode_invalid1 hinv bs).symm.trans h
    exact wf_of_8086 rfl hinv
  | false =>
    have h := yields_decodeOpcode_nibbles (isa186 := isa186) (op.extractLsb' 4 4) (op.extractLsb' 0 4)
    rw [nibbles_append] at h
    exact h hinv

/-! ### What decoding can answer (R90, R127) -/

/-- After the bytes of R94 in `seen`: more of them and then an opcode byte that is none, or so many that the run of them
is itself `Invalid`. -/
theorem decodeFrom_cases {isa186 : Bool} {seen : List Prefix} {bs rest : List Byte} {d : Decoded}
    (hseen : seen.length ≤ Config.maxPrefix) (h : decodeFrom isa186 seen bs = .ok (d, rest)) :
    (∃ ps op mid, bs = ps.map Prefix.byte ++ op :: mid ∧ seen.length + ps.length ≤ Config.maxPrefix ∧
      Prefix.ofByte? op = none ∧ d.prefixes = seen.reverse ++ ps ∧ decodeOpcode isa186 op mid = .ok (d.op, rest)) ∨
    (∃ ps : List Prefix, bs = ps.map Prefix.byte ++ rest ∧ seen.length + ps.length = Config.maxPrefix + 1 ∧
      d = ⟨[], .invalid ((seen.reverse ++ ps).map Prefix.byte)⟩) := by
  induction bs generalizing seen with
  | nil => cases h
  | cons b bs ih =>
    rw [decodeFrom] at h
    split at h
    case h_1 p hp =>
      obtain rfl := Prefix.byte_of_ofByte? hp
      split at h
      case isTrue hlt =>
        obtain ⟨ps, op, mid, rfl, hlen, hop, hps, hdec⟩ | ⟨ps, rfl, hlen, rfl⟩ := ih (seen := p :: seen) hlt h
        · exact .inl ⟨p :: ps, op, mid, rfl, by simp at hlen ⊢; omega, hop, by simp [hps], hdec⟩
        · exact .inr ⟨p :: ps, rfl, by simp at hlen ⊢; omega, by simp⟩
      case isFalse hge =>
        cases h
        exact .inr ⟨[p], rfl, by simp; omega, by simp⟩
    case h_2 hop =>
      obtain ⟨i, mid, hi, hd⟩ := Parse.andThen_eq_ok h
      cases hd
      exact .inl ⟨[], b, bs, rfl, by simpa using hseen, hop, by simp, hi⟩

theorem decode_cases {isa186 : Bool} {bs rest : List Byte} {d : Decoded} (h : decode isa186 bs = .ok (d, rest)) :
    (∃ op mid, bs = d.prefixes.map Prefix.byte ++ op :: mid ∧ d.prefixes.length ≤ Config.maxPrefix ∧
      Prefix.ofByte? op = none ∧ decodeOpcode isa186 op mid = .ok (d.op, rest)) ∨
    (∃ ps : List Prefix, bs = ps.map Prefix.byte ++ rest ∧ ps.length = Config.maxPrefix + 1 ∧
      d = ⟨[], .invalid (ps.map Prefix.byte)⟩) := by
  obtain ⟨ps, op, mid, rfl, hlen, hop, hps, hdec⟩ | ⟨ps, rfl, hlen, rfl⟩ := decodeFrom_cases (Nat.zero_le _) h
  · obtain rfl : d.prefixes = ps := hps
    exact .inl ⟨op, mid, rfl, by simpa using hlen, hop, hdec⟩
  · exact .inr ⟨ps, rfl, by simpa using hlen, rfl⟩

/-! ### An opcode that is none of the bytes of R94 decodes to an instruction that is none of them -/

theorem exists_prefixByte_head {i : Instr} (h : i.isPrefix = true ∨ i.isRunaway = true) :
    ∃ b tail, encode i = b :: tail ∧ isPrefixByte b = true := by
  obtain h | h := h
  · cases i
    case segEs | segCs | segSs | segDs | lock | repne | rep => exact ⟨_, [], rfl, rfl⟩
    all_goals cases h
  · obtain ⟨ps, hlen, rfl⟩ := exists_prefixes_of_isRunaway h
    obtain ⟨p, ps, rfl⟩ := List.exists_cons_of_length_eq_add_one hlen
    exact ⟨p.byte, ps.map Prefix.byte, rfl, by rw [isPrefixByte_iff, Prefix.ofByte?_byte]; rfl⟩

theorem isPrefixByte_writtenOpcode (op : Byte) : isPrefixByte (writtenOpcode op) = isPrefixByte op := by
  revert op; decide

theorem not_isPrefix_not_isRunaway_of_decodeOpcode {isa186 : Bool} {op : Byte} {bs rest : List Byte} {i : Instr}
    (hop : Prefix.ofByte? op = none) (h : decodeOpcode isa186 op bs = .ok (i, rest)) :
    i.isPrefix = false ∧ i.isRunaway = false := by
  by_contra hne
  obtain ⟨b, tail, henc, hb⟩ := exists_prefixByte_head (by simpa [or_iff_not_imp_left] using hne)
  have hspell : writtenOpcode op :: bs = encode i ++ rest := spells_decodeOpcode isa186 op bs i rest h
  rw [henc] at hspell
  obtain ⟨rfl, -⟩ := List.cons.inj hspell
  rw [isPrefixByte_writtenOpcode, isPrefixByte_iff, hop] at hb
  cases hb

theorem invalidRaw_of_runaway (isa186 : Bool) {ps : List Prefix} (h : ps.length = Config.maxPrefix + 1) :
    invalidRaw isa186 (ps.map Prefix.byte) = true := by
  have hrun : runawayRaw (ps.map Prefix.byte) = true := by
    simp [runawayRaw, h, isPrefixByte_iff]
  match ps, h with
  | _ :: _ :: _ :: _, _ => exact hrun

/-- What is decoded is well formed. -/
theorem wf_of_decode {isa186 : Bool} {bs rest : List Byte} {d : Decoded} (h : decode isa186 bs = .ok (d, rest)) :
    d.wf isa186 = true := by
  obtain ⟨op, mid, rfl, hlen, hop, hdec⟩ | ⟨ps, rfl, hlen, rfl⟩ := decode_cases h
  · obtain ⟨hp, hr⟩ := not_isPrefix_not_isRunaway_of_decodeOpcode hop hdec
    exact Decoded.wf_iff.mpr ⟨yields_decodeOpcode isa186 op _ _ _ hdec, hp, hlen, .inl hr⟩
  · exact Decoded.wf_iff.mpr ⟨wf_of_8086 rfl (invalidRaw_of_runaway isa186 hlen), rfl, Nat.zero_le _, .inr rfl⟩

theorem decodeOpcode_writtenOpcode (isa186 : Bool) (op : Byte) (bs : List Byte) :
    decodeOpcode isa186 (writtenOpcode op) bs = decodeOpcode isa186 op bs := by
  unfold writtenOpcode
  split
  case isTrue h => subst h; rfl
  case isFalse => rfl

/-- The bytes that decoding consumes decide what it answers, whatever follows them (R91). -/
theorem decode_consumed {isa186 : Bool} {bs rest : List Byte} {d : Decoded} (h : decode isa186 bs = .ok (d, rest)) :
    ∃ used, bs = used ++ rest ∧ ∀ rest', decode isa186 (used ++ rest') = .ok (d, rest') := by
  obtain ⟨op, mid, rfl, hlen, hop, hdec⟩ | ⟨ps, rfl, hlen, rfl⟩ := decode_cases h
  · obtain ⟨hp, hr⟩ := not_isPrefix_not_isRunaway_of_decodeOpcode hop hdec
    obtain ⟨_, tail, henc, -, hback⟩ := (readsBack_of_wf (yields_decodeOpcode isa186 op _ _ _ hdec) hp hr).exists_cons hp
    have hspell : writtenOpcode op :: mid = encode d.op ++ rest := spells_decodeOpcode isa186 op _ _ _ hdec
    rw [henc] at hspell
    obtain ⟨rfl, rfl⟩ := List.cons.inj hspell
    refine ⟨d.prefixes.map Prefix.byte ++ op :: tail, by simp, fun rest' => ?_⟩
    rw [List.append_assoc, List.cons_append, decode_prefixes isa186 _ op _ hlen hop, ← decodeOpcode_writtenOpcode,
      hback, Parse.andThen_ok]
  · exact ⟨ps.map Prefix.byte, rfl, fun rest' => decode_runaway isa186 ps rest' hlen⟩

theorem Decoded.one_le_len {isa186 : Bool} {d : Decoded} (h : d.wf isa186 = true) : 1 ≤ d.len := by
  by_contra hlen
  have hnil : d.bytes = [] := List.length_eq_zero_iff.mp (by rw [Decoded.len] at hlen; omega)
  have hdec := decodeInvertsEncode isa186 d [] h
  rw [hnil] at hdec
  cases hdec

/-- Settles O3: decoding answers (`decode_answers`), its answer is well formed (`wf_of_decode`), and it is as long as the
bytes consumed (`len_of_decode`). -/
theorem decodeAlwaysAnswers : Obligations.DecodeAlwaysAnswers := by
  intro isa186 bs hbs
  obtain ⟨d, rest, hdec, hrest⟩ := decode_answers isa186 bs hbs
  have hwf := wf_of_decode hdec
  have hlen := len_of_decode hdec
  have hmax : maxLength = 20 := rfl
  obtain ⟨used, rfl, -⟩ := decode_consumed hdec
  have hused : used.length = d.len := by rw [List.length_append] at hlen; omega
  refine ⟨d, ?_, hwf, Decoded.one_le_len hwf, by omega⟩
  rw [← hused, List.drop_left, hdec]

/-- No entry of R127 begins with 80, as which the encoder would write 82 (R118). -/
theorem not_invalidRaw_80 (isa186 : Bool) (tail : List Byte) : invalidRaw isa186 (0x80#8 :: tail) = false := by
  match tail with
  | [] => cases isa186 <;> rfl
  | [modrm] => simp [invalidRaw, invalidModRM]
  | _ :: _ :: _ => simp [invalidRaw, runawayRaw, isPrefixByte]

/-- An `Invalid` opcode byte is not 82, so that the raw bytes are the bytes consumed. -/
theorem bytes_of_decodeOpcode_invalid {isa186 : Bool} {op : Byte} {bs raw rest : List Byte}
    (h : decodeOpcode isa186 op bs = .ok (.invalid raw, rest)) : op :: bs = raw ++ rest := by
  have hraw : invalidRaw isa186 raw = true := (Instr.wf_iff.mp (yields_decodeOpcode isa186 op _ _ _ h)).2
  have hspell : writtenOpcode op :: bs = raw ++ rest := spells_decodeOpcode isa186 op _ _ _ h
  have hop : op ≠ 0x82#8 := by
    rintro rfl
    match raw, hspell with
    | [], _ => cases hraw
    | b :: tail, hspell =>
      obtain ⟨rfl, -⟩ := List.cons.inj hspell
      exact absurd hraw (by rw [writtenOpcode, if_pos rfl, not_invalidRaw_80]; decide)
  rwa [writtenOpcode, if_neg hop] at hspell

/-- Settles O4: what is decoded as `Invalid` is well formed, hence of the list; each encoding of the list is the
encoding of a well-formed `Invalid`, and is read back (`decodeInvertsEncode`). -/
theorem invalidEncodings : Obligations.InvalidEncodings := by
  refine ⟨fun isa186 bs ps raw rest h => ?_, fun isa186 ps op rest hps h => ?_, fun isa186 ps op modrm rest hps h => ?_,
    fun isa186 ps rest hps => decode_runaway isa186 ps rest hps⟩
  · obtain ⟨hwf, -⟩ := Decoded.wf_iff.mp (wf_of_decode h)
    refine ⟨(Instr.wf_iff.mp hwf).2, ?_⟩
    obtain ⟨op, mid, rfl, -, -, hdec⟩ | ⟨qs, rfl, -, hd⟩ := decode_cases h
    · rw [List.append_assoc, bytes_of_decodeOpcode_invalid hdec]
    · cases hd; rfl
  · have hwf : (Decoded.mk ps (.invalid [op])).wf isa186 = true :=
      Decoded.wf_iff.mpr ⟨wf_of_8086 rfl h, rfl, hps, .inl rfl⟩
    simpa [Decoded.bytes, encode] using decodeInvertsEncode isa186 _ rest hwf
  · have hwf : (Decoded.mk ps (.invalid [op, modrm])).wf isa186 = true :=
      Decoded.wf_iff.mpr ⟨wf_of_8086 rfl h, rfl, hps, .inl rfl⟩
    simpa [Decoded.bytes, encode] using decodeInvertsEncode isa186 _ rest hwf

end Sys2Proof

namespace Sys2Proof.Machine

/-! ### The bytes fetched at CS:IP (R92) -/

theorem fetchFrom_eq_map (s : State) (k n : Nat) : s.fetchFrom k n =
    (List.range' k n).map fun j => s.mem.read (phys (s.seg .cs) (s.ip + BitVec.ofNat 16 j)) := by
  induction n generalizing k with
  | zero => rfl
  | succ n ih => rw [State.fetchFrom, ih, List.range'_succ, List.map_cons]; rfl

/-- Two states whose bytes at CS:IP agree up to `len` fetch the same first `len` bytes. -/
theorem take_fetch_congr {s t : State} {len : Nat}
    (h : ∀ k < len, t.mem.read (phys (t.seg .cs) (t.ip + BitVec.ofNat 16 k)) =
      s.mem.read (phys (s.seg .cs) (s.ip + BitVec.ofNat 16 k))) : t.fetch.take len = s.fetch.take len := by
  simp only [State.fetch, fetchFrom_eq_map, ← List.map_take]
  refine List.map_congr_left fun k hk => h k ?_
  obtain ⟨i, hi, rfl⟩ := List.mem_take_iff_getElem.mp hk
  simp at hi ⊢; omega

/-- Settles O5: the bytes consumed decide the answer (`decode_consumed`), and the two states fetch the same ones. -/
theorem decodeReadsOnlyItsBytes : Obligations.DecodeReadsOnlyItsBytes := by
  intro s t d len hs hisa hread
  obtain ⟨d', rest, hdec, -⟩ := decode_answers s.isa186 s.fetch (by simp)
  cases (decodeNext_of_decode hdec).symm.trans hs
  obtain ⟨used, hused, hany⟩ := decode_consumed hdec
  have hlen : used.length = d.len := by
    have h := len_of_decode hdec
    rw [hused, List.length_append] at h
    omega
  have ht : t.fetch = used ++ t.fetch.drop d.len := by
    rw [← List.take_append_drop d.len t.fetch, take_fetch_congr hread, hused, ← hlen]
    simp
  refine decodeNext_of_decode (rest := t.fetch.drop d.len) ?_
  rw [hisa, ht, hany, ← hlen, List.drop_left]

end Sys2Proof.Machine
end

section
namespace Sys2Proof.Machine

/-! ## The bytes of R94 as instructions (log entry 3; 30_encoding.md R94 to R96) -/

/-- The fields `f` after one more byte of R94 (R95). -/
def Pfx.record (f : Pfx) (p : Prefix) : Pfx where
  seg := p.segment.or f.seg
  rep := p.repeats.or f.rep
  lock := p == .lock || f.lock

theorem exec_prefix (p : Prefix) (s : State) : exec p.instr s = .next (s.setPfx (s.pfx.record p)) := by
  cases p <;> rfl

theorem execPrefixes_eq (ps : List Prefix) (s : State) :
    execPrefixes ps s = .next (s.setPfx (ps.foldl Pfx.record s.pfx)) := by
  induction ps generalizing s with
  | nil => rfl
  | cons p ps ih =>
    rw [execPrefixes, exec_prefix]
    exact ih _

/-! The last byte of a run that names a segment, or a repeat, is the one recorded. -/

theorem seg_foldl_record (ps : List Prefix) (f : Pfx) :
    (ps.foldl Pfx.record f).seg = (ps.filterMap Prefix.segment).getLast?.or f.seg := by
  induction ps generalizing f with
  | nil => rfl
  | cons p ps ih =>
    rw [List.foldl_cons, ih, Pfx.record, List.filterMap_cons]
    cases p.segment <;> simp [List.getLast?_cons]

theorem rep_foldl_record (ps : List Prefix) (f : Pfx) :
    (ps.foldl Pfx.record f).rep = (ps.filterMap Prefix.repeats).getLast?.or f.rep := by
  induction ps generalizing f with
  | nil => rfl
  | cons p ps ih =>
    rw [List.foldl_cons, ih, Pfx.record, List.filterMap_cons]
    cases p.repeats <;> simp [List.getLast?_cons]

theorem lock_foldl_record (ps : List Prefix) (f : Pfx) :
    (ps.foldl Pfx.record f).lock = true ↔ .lock ∈ ps ∨ f.lock = true := by
  induction ps generalizing f with
  | nil => simp
  | cons p ps ih => simp [ih, Pfx.record, eq_comm (a := Prefix.lock), or_assoc, or_left_comm]

/-- Settles O6: each byte by computation; a run of them by what it folds to (`execPrefixes_eq`). -/
theorem prefixBytesRecorded : Obligations.PrefixBytesRecorded := by
  refine ⟨?_, ?_, ?_, ?_, ?_, ?_, ?_, fun s ps hs => ⟨_, execPrefixes_eq ps s, ?_, ?_, ?_, changes_setPfx _ _⟩⟩
  case refine_8 => simp [seg_foldl_record, hs, Pfx.none]
  case refine_9 => simp [rep_foldl_record, hs, Pfx.none]
  case refine_10 => simp [lock_foldl_record, hs, Pfx.none]
  all_goals exact fun s => ⟨_, rfl, rfl, changes_setPfx _ _⟩

/-! ## Effective addresses (30_encoding.md R96, R102, R103) -/

theorem eaBase_eq (s : State) (b : EABase) : s.eaBase b = BitVec.ofNat 16 (s.baseSum b) := by
  cases b <;> simp [State.eaBase, State.baseSum, BitVec.ofNat_add]

/-- A displacement, signed or not, is added modulo 2^16 (R103). -/
theorem ofNat_add_signExtend (n : Nat) (d : Byte) :
    BitVec.ofNat 16 n + d.signExtend 16 = BitVec.ofInt 16 (n + d.toInt) := by
  rw [BitVec.ofInt_add, BitVec.ofInt_natCast]; rfl

theorem baseSeg_eq (b : EABase) : baseSeg b = if b.usesBp then .ss else .ds := by cases b <;> rfl

theorem memSeg_of_override {s : State} {r : SReg} (h : s.pfx.seg = some r) (m : MemForm) : s.memSeg m = s.seg r := by
  rw [State.memSeg, State.dataSeg, h]

theorem memSeg_of_default {s : State} (h : s.pfx.seg = none) (m : MemForm) : s.memSeg m = s.seg (formSeg m) := by
  rw [State.memSeg, State.dataSeg, h]

/-- Settles O22: the base is the sum of R102 (`eaBase_eq`), the segment the override's or the form's default. -/
theorem effectiveAddresses : Obligations.EffectiveAddresses := by
  refine ⟨fun s b => ⟨eaBase_eq s b, fun _ => rfl, fun d => ?_, fun d => ?_⟩, fun s m r h => memSeg_of_override h m,
    fun s b d w h => ?_⟩
  · rw [State.ea, eaBase_eq, ofNat_add_signExtend]
  · rw [State.ea, eaBase_eq, BitVec.ofNat_add, BitVec.ofNat_toNat, BitVec.setWidth_eq]
  · simp only [memSeg_of_default h, formSeg, baseSeg_eq, and_self]

/-! ## Words of the spec (30_encoding.md R110 to R126) -/

/-- Settles O1: the decoder is run on each word. -/
theorem specWordsDecode : Obligations.SpecWordsDecode := by
  unfold Obligations.SpecWordsDecode
  and_intros <;> rfl

end Sys2Proof.Machine
end

section
namespace Sys2Proof.Machine

/-! ## The arithmetic family (40_arithmetic.md R140 to R165)

A form of ADD, SUB and their kin is one template at a resolved operand (`alu8_add` and so on): a register operand
resolves to itself. -/

/-- Settles O24: every form is the template of R140 (`alu8_add`, `alu16_add`, `alu8_adc`, `alu16_adc`). -/
theorem addForms : Obligations.AddForms :=
  ⟨fun s e _ => ⟨_, rfl, alu8_add s e _⟩, fun s e _ => ⟨_, rfl, alu16_add s e _⟩,
    fun s g _ => ⟨_, rfl, alu8_add s (.reg g) _⟩, fun s g _ => ⟨_, rfl, alu16_add s (.reg g) _⟩,
    fun s b => ⟨_, rfl, alu8_add s (.reg .al) b⟩, fun s w => ⟨_, rfl, alu16_add s (.reg .ax) w⟩,
    fun s e b => ⟨_, rfl, alu8_add s e b⟩, fun s e w => ⟨_, rfl, alu16_add s e w⟩,
    fun s e b => ⟨_, rfl, alu16_add s e (sext16 b)⟩,
    fun s e _ => ⟨_, rfl, alu8_adc s e _⟩, fun s e _ => ⟨_, rfl, alu16_adc s e _⟩,
    fun s g _ => ⟨_, rfl, alu8_adc s (.reg g) _⟩, fun s g _ => ⟨_, rfl, alu16_adc s (.reg g) _⟩,
    fun s b => ⟨_, rfl, alu8_adc s (.reg .al) b⟩, fun s w => ⟨_, rfl, alu16_adc s (.reg .ax) w⟩,
    fun s e b => ⟨_, rfl, alu8_adc s e b⟩, fun s e w => ⟨_, rfl, alu16_adc s e w⟩,
    fun s e b => ⟨_, rfl, alu16_adc s e (sext16 b)⟩⟩

/-- Settles O25: every form is the template of R140 (`alu8_sub`, `alu16_sub`, `alu8_sbb`, `alu16_sbb`). -/
theorem subForms : Obligations.SubForms :=
  ⟨fun s e _ => ⟨_, rfl, alu8_sub s e _⟩, fun s e _ => ⟨_, rfl, alu16_sub s e _⟩,
    fun s g _ => ⟨_, rfl, alu8_sub s (.reg g) _⟩, fun s g _ => ⟨_, rfl, alu16_sub s (.reg g) _⟩,
    fun s b => ⟨_, rfl, alu8_sub s (.reg .al) b⟩, fun s w => ⟨_, rfl, alu16_sub s (.reg .ax) w⟩,
    fun s e b => ⟨_, rfl, alu8_sub s e b⟩, fun s e w => ⟨_, rfl, alu16_sub s e w⟩,
    fun s e b => ⟨_, rfl, alu16_sub s e (sext16 b)⟩,
    fun s e _ => ⟨_, rfl, alu8_sbb s e _⟩, fun s e _ => ⟨_, rfl, alu16_sbb s e _⟩,
    fun s g _ => ⟨_, rfl, alu8_sbb s (.reg g) _⟩, fun s g _ => ⟨_, rfl, alu16_sbb s (.reg g) _⟩,
    fun s b => ⟨_, rfl, alu8_sbb s (.reg .al) b⟩, fun s w => ⟨_, rfl, alu16_sbb s (.reg .ax) w⟩,
    fun s e b => ⟨_, rfl, alu8_sbb s e b⟩, fun s e w => ⟨_, rfl, alu16_sbb s e w⟩,
    fun s e b => ⟨_, rfl, alu16_sbb s e (sext16 b)⟩⟩

/-! ### CMP and TEST (R145, 41_logic_shift.md R193) -/

section
variable (s : State)

theorem test8_spec (a b : Byte) :
    Changes s (s.test8 a b) [] [] [.flags] ∧ LogicSets (a &&& b) s.flags (s.test8 a b).flags :=
  ⟨changes_setFlags _ _, logicSets_logicFlags (by decide) _ _⟩

theorem test16_spec (a b : Word) :
    Changes s (s.test16 a b) [] [] [.flags] ∧ LogicSets (a &&& b) s.flags (s.test16 a b).flags :=
  ⟨changes_setFlags _ _, logicSets_logicFlags (by decide) _ _⟩

end

/-- Settles O26: CMP is the template that stores nothing (`alu8_cmp`, `alu16_cmp`), TEST writes the flags alone. -/
theorem compareAndTestForms : Obligations.CompareAndTestForms :=
  ⟨fun s e _ => ⟨_, rfl, alu8_cmp s (s.loc e) _⟩, fun s e _ => ⟨_, rfl, alu16_cmp s (s.loc e) _⟩,
    fun s g _ => ⟨_, rfl, alu8_cmp s (.reg g) _⟩, fun s g _ => ⟨_, rfl, alu16_cmp s (.reg g) _⟩,
    fun s b => ⟨_, rfl, alu8_cmp s (.reg .al) b⟩, fun s w => ⟨_, rfl, alu16_cmp s (.reg .ax) w⟩,
    fun s e b => ⟨_, rfl, alu8_cmp s (s.loc e) b⟩, fun s e w => ⟨_, rfl, alu16_cmp s (s.loc e) w⟩,
    fun s e b => ⟨_, rfl, alu16_cmp s (s.loc e) (sext16 b)⟩,
    fun s _ _ => ⟨_, rfl, test8_spec s _ _⟩, fun s _ _ => ⟨_, rfl, test16_spec s _ _⟩,
    fun s _ => ⟨_, rfl, test8_spec s _ _⟩, fun s _ => ⟨_, rfl, test16_spec s _ _⟩,
    fun s _ _ => ⟨_, rfl, test8_spec s _ _⟩, fun s _ _ => ⟨_, rfl, test16_spec s _ _⟩⟩

/-! ### INC and DEC (R148, R149): the flags but CF are those of adding or subtracting 1 -/

section
variable (s : State)

theorem inc8_sets (e : Eb) :
    Wrote8 s (s.inc8 (s.loc e)) e (BitVec.ofNat 8 ((s.readEb e).toNat + 1)) [.flags] ∧
      AddSets (s.readEb e) 1#8 false (BitVec.ofNat 8 ((s.readEb e).toNat + 1)) s.flags
        (addFlags (s.readEb e) 1#8 false s.flags) ∧
      CarryKept s.flags (s.inc8 (s.loc e)).flags (addFlags (s.readEb e) 1#8 false s.flags) := by
  obtain ⟨hw, hf⟩ := inc8_spec s e
  exact ⟨hw, addSets_addFlags (by decide) _ _ _ _, hf ▸ carryKept_inc _ _⟩

theorem inc16_sets (e : Ew) :
    Wrote16 s (s.inc16 (s.loc e)) e (BitVec.ofNat 16 ((s.readEw e).toNat + 1)) [.flags] ∧
      AddSets (s.readEw e) 1#16 false (BitVec.ofNat 16 ((s.readEw e).toNat + 1)) s.flags
        (addFlags (s.readEw e) 1#16 false s.flags) ∧
      CarryKept s.flags (s.inc16 (s.loc e)).flags (addFlags (s.readEw e) 1#16 false s.flags) := by
  obtain ⟨hw, hf⟩ := inc16_spec s e
  exact ⟨hw, addSets_addFlags (by decide) _ _ _ _, hf ▸ carryKept_inc _ _⟩

theorem dec8_sets (e : Eb) :
    Wrote8 s (s.dec8 (s.loc e)) e (difference (s.readEb e) 1#8 false) [.flags] ∧
      SubSets (s.readEb e) 1#8 false (difference (s.readEb e) 1#8 false) s.flags
        (subFlags (s.readEb e) 1#8 false s.flags) ∧
      CarryKept s.flags (s.dec8 (s.loc e)).flags (subFlags (s.readEb e) 1#8 false s.flags) := by
  obtain ⟨hw, hf⟩ := dec8_spec s e
  exact ⟨hw, subSets_subFlags (by decide) _ _ _ _, hf ▸ carryKept_dec _ _⟩

theorem dec16_sets (e : Ew) :
    Wrote16 s (s.dec16 (s.loc e)) e (difference (s.readEw e) 1#16 false) [.flags] ∧
      SubSets (s.readEw e) 1#16 false (difference (s.readEw e) 1#16 false) s.flags
        (subFlags (s.readEw e) 1#16 false s.flags) ∧
      CarryKept s.flags (s.dec16 (s.loc e)).flags (subFlags (s.readEw e) 1#16 false s.flags) := by
  obtain ⟨hw, hf⟩ := dec16_spec s e
  exact ⟨hw, subSets_subFlags (by decide) _ _ _ _, hf ▸ carryKept_dec _ _⟩

end

/-- Settles O28: the one-byte forms are the register operand of the others. -/
theorem incrementDecrementForms : Obligations.IncrementDecrementForms :=
  ⟨fun s r => ⟨_, _, rfl, inc16_sets s (.reg r)⟩, fun s e => ⟨_, _, rfl, inc8_sets s e⟩,
    fun s e => ⟨_, _, rfl, inc16_sets s e⟩, fun s r => ⟨_, _, rfl, dec16_sets s (.reg r)⟩,
    fun s e => ⟨_, _, rfl, dec8_sets s e⟩, fun s e => ⟨_, _, rfl, dec16_sets s e⟩⟩

/-! ### NEG and NOT (R150, 41_logic_shift.md R194) -/

section
variable (s : State)

/-- An operand replaced by `a - b - c`, after the flags of that subtraction. -/
theorem subtracted8_put8 (e : Eb) (a b : Byte) (c : Bool) :
    Subtracted8 s ((s.setFlags (subFlags a b c s.flags)).put8 (s.loc e) (subResult a b c)) e a b c := by
  rw [Subtracted8, State.flags_put8, difference_eq (by decide)]
  exact ⟨wrote8_put8 (changes_setFlags _ _) _ _, difference_eq (w := 8) (by decide) a b c ▸
    subSets_subFlags (by decide) _ _ _ _⟩

theorem subtracted16_put16 (e : Ew) (a b : Word) (c : Bool) :
    Subtracted16 s ((s.setFlags (subFlags a b c s.flags)).put16 (s.loc e) (subResult a b c)) e a b c := by
  rw [Subtracted16, State.flags_put16, difference_eq (by decide)]
  exact ⟨wrote16_put16 (changes_setFlags _ _) _ _, difference_eq (w := 16) (by decide) a b c ▸
    subSets_subFlags (by decide) _ _ _ _⟩

end

/-- Inverting every bit is subtracting from all ones. -/
theorem not_eq_ofNat {w : Nat} (a : BitVec w) : ~~~a = BitVec.ofNat w (2 ^ w - 1 - a.toNat) := by
  rw [← BitVec.toNat_not, BitVec.ofNat_toNat, BitVec.setWidth_eq]

/-- Settles O29: NEG stores a difference (`subtracted8_put8`), NOT an inverse (`not_eq_ofNat`), in the operand. -/
theorem negateAndComplement : Obligations.NegateAndComplement := by
  refine ⟨fun s e => ⟨_, rfl, subtracted8_put8 s e _ _ _⟩, fun s e => ⟨_, rfl, subtracted16_put16 s e _ _ _⟩,
    fun s e => ⟨_, rfl, ?_⟩, fun s e => ⟨_, rfl, ?_⟩⟩
  · rw [not_eq_ofNat]
    exact wrote8_put8 (Changes.refl s) e _
  · rw [not_eq_ofNat]
    exact wrote16_put16 (Changes.refl s) e _

end Sys2Proof.Machine
end

section
namespace Sys2Proof.Machine

/-! ## Multiply, divide, extend and adjust (40_arithmetic.md R152 to R165)

Each writes the accumulator, or AX and DX, and then the flags, some of them drawn. -/

section
variable {s t : State} {regs : List Reg16}

/-- Flags written and free values drawn after a change that keeps every part. -/
theorem Changes.setFlags_drew (h : Changes s t regs [] []) (f : Flags) (k : Nat) :
    Changes s ((t.setFlags f).drew k) regs [] [.flags] :=
  (h.trans (changes_setFlags t f) (r := regs) (b := []) (p := [.flags]) (by simp) (by simp) (by simp)).trans
    (changes_drew _ k) (by simp) (by simp) (by simp)

end

section
variable (s : State) (r q : Reg16) (a b : Reg8) (v w : Word) (x y : Byte)

theorem changes_setReg16_setReg16 : Changes s ((s.setReg16 r v).setReg16 q w) [r, q] [] [] :=
  (changes_setReg16 s r v).trans (changes_setReg16 _ q w) (by simp) (by simp) (by simp)

/-- Both halves of one register written (10_state.md R22). -/
theorem changes_setReg8_setReg8 (h : Reg8.home b = Reg8.home a) :
    Changes s ((s.setReg8 a x).setReg8 b y) [Reg8.home a] [] [] :=
  (changes_setReg8 s a x).trans (h ▸ changes_setReg8 _ b y) (by simp) (by simp) (by simp)

end

/-! ### Numbers in two halves -/

/-- The upper half of a number is significant when the number does not fit the lower one (R152). -/
theorem high_ne_zero_iff {n m : Nat} (v : BitVec (n + m)) :
    (v.extractLsb' n m != 0#m) = true ↔ 2 ^ n ≤ v.toNat := by
  have hlt : v.toNat / 2 ^ n < 2 ^ m := Nat.div_lt_of_lt_mul (Nat.pow_add 2 n m ▸ v.isLt)
  rw [bne_iff_ne, Ne, ← BitVec.toNat_inj, BitVec.extractLsb'_toNat, Nat.shiftRight_eq_div_pow, Nat.mod_eq_of_lt hlt]
  simp

/-- A number is its lower half sign-extended when it fits that half as a signed number (R153). -/
theorem signExtend_low_ne_iff {n m : Nat} (hn : 0 < n) (h : n ≤ m) (v : BitVec m) :
    ((v.extractLsb' 0 n).signExtend m != v) = true ↔ v.toInt < -2 ^ (n - 1) ∨ 2 ^ (n - 1) ≤ v.toInt := by
  have hlow : (v.extractLsb' 0 n).toInt = v.toInt.bmod (2 ^ n) := by
    rw [← BitVec.setWidth_eq_extractLsb' h, ← BitVec.signExtend_eq_setWidth_of_le v h,
      BitVec.toInt_signExtend_eq_toInt_bmod_of_le v h]
  have heq : (v.extractLsb' 0 n).signExtend m = v ↔ -2 ^ (n - 1) ≤ v.toInt ∧ v.toInt < 2 ^ (n - 1) := by
    rw [← BitVec.toInt_inj, BitVec.toInt_signExtend_of_le h]
    constructor
    · intro hv
      exact hv ▸ ⟨BitVec.le_toInt _, BitVec.toInt_lt⟩
    · rintro ⟨hlo, hhi⟩
      rw [hlow, ← BitVec.toInt_ofInt, BitVec.toInt_ofInt_eq_self hn hlo hhi]
  rw [bne_iff_ne, Ne, heq, not_and_or, not_le, not_lt]

/-- A signed double word is its signed upper word and its unsigned lower word. -/
theorem toInt_append_word (hi lo : Word) : (hi ++ lo).toInt = hi.toInt * 0x10000 + lo.toNat := by
  rw [BitVec.toInt_append, if_neg (by decide), Int.mul_comm]
  rfl

theorem append_words (p : BitVec 32) : p.extractLsb' 16 16 ++ p.extractLsb' 0 16 = p := by
  rw [BitVec.extractLsb'_append_extractLsb'_eq_extractLsb' (by decide)]
  exact BitVec.extractLsb'_eq_self

theorem toNat_words (p : BitVec 32) :
    (p.extractLsb' 16 16).toNat * 0x10000 + (p.extractLsb' 0 16).toNat = p.toNat := by
  have := p.isLt
  simp only [BitVec.extractLsb'_toNat, Nat.shiftRight_eq_div_pow]
  omega

/-! ### Multiply (R152, R153, 46_ext186.md R386) -/

theorem toNat_ofNat_mul {w : Nat} (a b : BitVec w) :
    (BitVec.ofNat (w + w) (a.toNat * b.toNat)).toNat = a.toNat * b.toNat := by
  rw [BitVec.toNat_ofNat, Nat.mod_eq_of_lt]
  exact Nat.pow_add 2 w w ▸ Nat.mul_lt_mul'' a.isLt b.isLt

theorem toInt_ofInt_mul {w : Nat} (hw : 0 < w) (a b : BitVec w) :
    (BitVec.ofInt (w + w) (a.toInt * b.toInt)).toInt = a.toInt * b.toInt := by
  have hlo : -2 ^ (w * 2 - 2) ≤ a.toInt * b.toInt := BitVec.le_toInt_mul_toInt
  have hhi : a.toInt * b.toInt ≤ 2 ^ (w * 2 - 2) := BitVec.toInt_mul_toInt_le
  have hpow : (2 : Int) ^ (w * 2 - 2) < 2 ^ (w + w - 1) := pow_lt_pow_right₀ (by decide) (by omega)
  exact BitVec.toInt_ofInt_eq_self (by omega) (by omega) (by omega)

/-- CF of an unsigned multiply. -/
theorem high_mul_ne_zero_iff {w : Nat} (a b : BitVec w) :
    ((BitVec.ofNat (w + w) (a.toNat * b.toNat)).extractLsb' w w != 0#w) = true ↔ 2 ^ w ≤ a.toNat * b.toNat := by
  rw [high_ne_zero_iff, toNat_ofNat_mul]

/-- CF of a signed multiply. -/
theorem signExtend_low_mul_ne_iff {w : Nat} (hw : 0 < w) (a b : BitVec w) :
    (((BitVec.ofInt (w + w) (a.toInt * b.toInt)).extractLsb' 0 w).signExtend (w + w) !=
      BitVec.ofInt (w + w) (a.toInt * b.toInt)) = true ↔
    a.toInt * b.toInt < -2 ^ (w - 1) ∨ 2 ^ (w - 1) ≤ a.toInt * b.toInt := by
  rw [signExtend_low_ne_iff hw (by omega), toInt_ofInt_mul hw]

section
variable (s : State) (c : Bool)

theorem changes_product8 (ax : Word) : Changes s (s.product8 ax c) [.ax] [] [.flags] :=
  (changes_setReg16 s .ax ax).setFlags_drew _ _

theorem changes_product16 (p : BitVec 32) : Changes s (s.product16 p c) [.ax, .dx] [] [.flags] :=
  (changes_setReg16_setReg16 s .ax .dx _ _).setFlags_drew _ _

theorem changes_imulInto (g : Reg16) (a i : Word) : Changes s (s.imulInto g a i) [g] [] [.flags] :=
  (changes_setReg16 s g _).setFlags_drew _ _

/-- The word product is in DX:AX, unsigned. -/
theorem toNat_product16 (p : BitVec 32) :
    ((s.product16 p c).reg16 .dx).toNat * 0x10000 + ((s.product16 p c).reg16 .ax).toNat = p.toNat := toNat_words p

/-- The word product is in DX:AX, signed. -/
theorem toInt_product16 (p : BitVec 32) :
    ((s.product16 p c).reg16 .dx).toInt * 0x10000 + ((s.product16 p c).reg16 .ax).toNat = p.toInt := by
  rw [← toInt_append_word]
  exact congrArg BitVec.toInt (append_words p)

end

theorem toInt_sext16 (b : Byte) : (sext16 b).toInt = b.toInt := BitVec.toInt_signExtend_of_le (by decide)

/-- Settles O30: the product fits the double width (`toNat_ofNat_mul`, `toInt_ofInt_mul`); CF compares it with the
narrow width (`high_mul_ne_zero_iff`, `signExtend_low_mul_ne_iff`). -/
theorem multiplyForms : Obligations.MultiplyForms := by
  refine ⟨fun s e => ⟨_, rfl, changes_product8 s _ _, ⟨rfl, rfl, rfl⟩, ?_, ?_, rfl⟩,
    fun s e => ⟨_, rfl, changes_product16 s _ _, ⟨rfl, rfl, rfl⟩, ?_, ?_, rfl⟩,
    fun s e => ⟨_, rfl, changes_product8 s _ _, ⟨rfl, rfl, rfl⟩, ?_, ?_, rfl⟩,
    fun s e => ⟨_, rfl, changes_product16 s _ _, ⟨rfl, rfl, rfl⟩, ?_, ?_, rfl⟩,
    fun s g e w => ⟨_, rfl, changes_imulInto s _ _ _, ⟨rfl, rfl, rfl⟩, State.reg16_setReg16_same _ _ _, ?_, rfl⟩,
    fun s g e b => ⟨_, rfl, changes_imulInto s _ _ _, ⟨rfl, rfl, rfl⟩, ?_, ?_, rfl⟩⟩
  · exact toNat_ofNat_mul (s.reg8 .al) (s.readEb e)
  · exact high_mul_ne_zero_iff (s.reg8 .al) (s.readEb e)
  · rw [toNat_product16]
    exact toNat_ofNat_mul (s.reg16 .ax) (s.readEw e)
  · exact high_mul_ne_zero_iff (s.reg16 .ax) (s.readEw e)
  · exact toInt_ofInt_mul (by decide) (s.reg8 .al) (s.readEb e)
  · exact signExtend_low_mul_ne_iff (by decide) (s.reg8 .al) (s.readEb e)
  · rw [toInt_product16]
    exact toInt_ofInt_mul (by decide) (s.reg16 .ax) (s.readEw e)
  · exact signExtend_low_mul_ne_iff (by decide) (s.reg16 .ax) (s.readEw e)
  · exact decide_eq_true_iff
  · rw [← toInt_sext16]
    exact State.reg16_setReg16_same _ _ _
  · rw [← toInt_sext16]
    exact decide_eq_true_iff

/-! ### Divide (R154, R155) -/

section
variable (s : State)

theorem changes_quotient8 (q r : Byte) : Changes s (s.quotient8 q r) [.ax] [] [.flags] :=
  (changes_setReg8_setReg8 s .al .ah q r rfl).setFlags_drew _ _

theorem changes_quotient16 (q r : Word) : Changes s (s.quotient16 q r) [.ax, .dx] [] [.flags] :=
  (changes_setReg16_setReg16 s .ax .dx q r).setFlags_drew _ _

theorem controlKept_quotient8 (q r : Byte) : ControlKept s.flags (s.quotient8 q r).flags := ⟨rfl, rfl, rfl⟩

theorem controlKept_quotient16 (q r : Word) : ControlKept s.flags (s.quotient16 q r).flags := ⟨rfl, rfl, rfl⟩

@[simp] theorem al_quotient8 (q r : Byte) : (s.quotient8 q r).reg8 .al = q := by
  simp [State.quotient8, State.divDone, State.reg8_setReg8]

@[simp] theorem ah_quotient8 (q r : Byte) : (s.quotient8 q r).reg8 .ah = r := by
  simp [State.quotient8, State.divDone]

@[simp] theorem ax_quotient16 (q r : Word) : (s.quotient16 q r).reg16 .ax = q := rfl

@[simp] theorem dx_quotient16 (q r : Word) : (s.quotient16 q r).reg16 .dx = r := rfl

end

/-! Both widths of DIV raise in the same two cases, and both widths of IDIV. -/

section
variable {α : Type} {raise quotient : α}

theorem divide_of_lt {n d m : Nat} (h : n < (m + 1) * d) :
    (if d = 0 then raise else if m < n / d then raise else quotient) = quotient := by
  have hd : 0 < d := Nat.pos_of_mul_pos_left (Nat.zero_lt_of_lt h)
  have hq : n / d < m + 1 := (Nat.div_lt_iff_lt_mul hd).mpr h
  rw [if_neg hd.ne', if_neg (by omega)]

theorem divide_of_le {n d m : Nat} (h : (m + 1) * d ≤ n) :
    (if d = 0 then raise else if m < n / d then raise else quotient) = raise := by
  split
  case isTrue => rfl
  case isFalse hd => exact if_pos ((Nat.le_div_iff_mul_le (Nat.pos_of_ne_zero hd)).mpr h)

theorem idivide_of_fits {q d m : Int} (hd : d ≠ 0) (hq : q.natAbs ≤ m) :
    (if d = 0 then raise else if m < q ∨ q < -m then raise else quotient) = quotient := by
  rw [if_neg hd, if_neg (by omega)]

theorem idivide_of_not_fits {q d m : Int} (h : d = 0 ∨ m < q.natAbs) :
    (if d = 0 then raise else if m < q ∨ q < -m then raise else quotient) = raise := by
  split
  case isTrue => rfl
  case isFalse hd => exact if_pos (by omega)

end

/-- A quotient that fits the width, and its remainder, are exact (R154). -/
theorem toNat_divide {w n d : Nat} (hd : d < 2 ^ w) (h : n < 2 ^ w * d) :
    (BitVec.ofNat w (n - n / d * d)).toNat < d ∧
      (BitVec.ofNat w (n / d)).toNat * d + (BitVec.ofNat w (n - n / d * d)).toNat = n := by
  have hpos : 0 < d := Nat.pos_of_mul_pos_left (Nat.zero_lt_of_lt h)
  have hq : n / d < 2 ^ w := (Nat.div_lt_iff_lt_mul hpos).mpr h
  have hr : n % d < d := Nat.mod_lt n hpos
  rw [← Nat.mod_eq_sub_div_mul, BitVec.toNat_ofNat, BitVec.toNat_ofNat, Nat.mod_eq_of_lt hq,
    Nat.mod_eq_of_lt (hr.trans hd)]
  exact ⟨hr, Nat.div_add_mod' n d⟩

/-- Settles O31: the size of the dividend decides whether DIV raises (`divide_of_lt`, `divide_of_le`), and a division is
exact (`toNat_divide`). -/
theorem unsignedDivide : Obligations.UnsignedDivide := by
  refine ⟨fun s e h => ⟨_, divide_of_lt h, changes_quotient8 s _ _, controlKept_quotient8 s _ _, ?_⟩,
    fun s e h => ⟨_, divide_of_lt ?_, changes_quotient16 s _ _, controlKept_quotient16 s _ _, ?_⟩,
    fun s e h => ⟨_, divide_of_le h, raised_interrupt s _⟩,
    fun s e h => ⟨_, divide_of_le ?_, raised_interrupt s _⟩⟩
  case refine_1 =>
    rw [al_quotient8, ah_quotient8]
    exact toNat_divide (w := 8) (s.readEb e).isLt h
  case refine_3 =>
    have hlt := (s.reg16 .ax).isLt
    exact toNat_divide (w := 16) (s.readEw e).isLt (by omega)
  case refine_2 | refine_4 =>
    have hlt := (s.reg16 .ax).isLt
    omega

/-- A signed remainder fits the width of its divisor (R155). -/
theorem toInt_remainder {w : Nat} (hw : 0 < w) (n : Int) {d : BitVec w} (hd : d.toInt ≠ 0) :
    (BitVec.ofInt w (n - n.tdiv d.toInt * d.toInt)).toInt = n.tmod d.toInt := by
  rw [Int.mul_comm, ← Int.tmod_def]
  have hlt : (n.tmod d.toInt).natAbs < d.toInt.natAbs := by
    rw [Int.natAbs_tmod]
    exact Nat.mod_lt _ (Int.natAbs_pos.mpr hd)
  have hlo : -2 ^ (w - 1) ≤ d.toInt := BitVec.le_toInt d
  have hhi : d.toInt < 2 ^ (w - 1) := BitVec.toInt_lt
  exact BitVec.toInt_ofInt_eq_self hw (by omega) (by omega)

/-- Settles O32: the size of the quotient decides whether IDIV raises (`idivide_of_fits`, `idivide_of_not_fits`), and the
remainder fits (`toInt_remainder`). -/
theorem signedDivide : Obligations.SignedDivide := by
  refine ⟨fun s e hd hq => ⟨_, idivide_of_fits hd (by exact_mod_cast hq), changes_quotient8 s _ _,
      controlKept_quotient8 s _ _, ?_, ?_⟩,
    fun s e hd hq => ?_,
    fun s e h => ⟨_, idivide_of_not_fits (by exact_mod_cast h), raised_interrupt s _⟩,
    fun s e h => ?_⟩
  · rw [al_quotient8]
    exact BitVec.toInt_ofInt_eq_self (by decide) (by omega) (by omega)
  · rw [ah_quotient8]
    exact toInt_remainder (by decide) _ hd
  · rw [← toInt_append_word] at hq ⊢
    refine ⟨_, idivide_of_fits hd (by exact_mod_cast hq), changes_quotient16 s _ _, controlKept_quotient16 s _ _,
      ?_, ?_⟩
    · exact BitVec.toInt_ofInt_eq_self (by decide) (by omega) (by omega)
    · exact toInt_remainder (by decide) _ hd
  · rw [← toInt_append_word] at h
    exact ⟨_, idivide_of_not_fits (by exact_mod_cast h), raised_interrupt s _⟩

/-! ### Sign extension of the accumulator (R157, R158) -/

/-- A word is its sign, all ones or all zeros, above itself. -/
theorem toInt_sign_word (v : Word) :
    (if v.msb then 0xFFFF#16 else 0#16).toInt * 0x10000 + v.toNat = v.toInt := by
  have hones : (0xFFFF#16).toInt = -1 := rfl
  rw [BitVec.toInt_eq_msb_cond v]
  split
  · rw [hones]; omega
  · simp

/-- Settles O33: the decoder is run on the two encodings; CBW is a sign extension, CWD writes the sign. -/
theorem accumulatorSignExtension : Obligations.AccumulatorSignExtension := by
  refine ⟨fun _ _ => rfl, fun _ _ => rfl, fun s => ⟨_, rfl, ?_, changes_setReg16 s .ax _⟩,
    fun s => ⟨_, rfl, ?_, changes_setReg16 s .dx _⟩⟩
  · rw [State.reg16_setReg16_same, toInt_sext16]
  · rw [State.reg16_setReg16_same]
    exact toInt_sign_word (s.reg16 .ax)

/-! ### Decimal and ASCII adjust (R160 to R165) -/

section
variable (s : State)

theorem lowAdjust_iff : s.lowAdjust = true ↔ 9 < (s.reg8 .al).toNat % 16 ∨ s.flags.AF = true := by
  simp [State.lowAdjust]

theorem highAdjust_iff : s.highAdjust = true ↔ 0x99 < (s.reg8 .al).toNat ∨ s.flags.CF = true := by
  simp [State.highAdjust]

/-- AL written, then flags and draws: what DAA and DAS end with. -/
theorem changes_al (x : Byte) (f : Flags) : Changes s (((s.setReg8 .al x).setFlags f).drew 6) [.ax] [] [.flags] :=
  (changes_setReg8 s .al x).setFlags_drew f 6

/-- AL and AH written, then flags and draws: what AAA, AAS and AAD end with. -/
theorem changes_al_ah (x y : Byte) (f : Flags) :
    Changes s ((((s.setReg8 .al x).setReg8 .ah y).setFlags f).drew 6) [.ax] [] [.flags] :=
  (changes_setReg8_setReg8 s .al .ah x y rfl).setFlags_drew f 6

theorem szpOf_baseFlags (x : Byte) : SzpOf x (s.baseFlags x) :=
  (szpOf_setSZP (by decide) x s.flags).congr rfl rfl rfl

end

/-- The two adjustments of DAA, each made or not, add up modulo 2^8. -/
theorem toNat_add_adjust (a : Byte) (low high : Bool) :
    (if high then (if low then a + 0x06#8 else a) + 0x60#8 else if low then a + 0x06#8 else a).toNat =
      (a.toNat + (if low then 6 else 0) + (if high then 0x60 else 0)) % 256 := by
  cases low <;> cases high <;> simp [BitVec.toNat_add, Nat.mod_eq_of_lt a.isLt]

/-- The two adjustments of DAS. -/
theorem toNat_sub_adjust (a : Byte) (low high : Bool) :
    (if high then (if low then a - 0x06#8 else a) - 0x60#8 else if low then a - 0x06#8 else a).toNat =
      (a.toNat + 512 - (if low then 6 else 0) - (if high then 0x60 else 0)) % 256 := by
  cases low <;> cases high <;> simp [BitVec.toNat_sub] <;> omega

/-- The low digit of a number. -/
theorem and_15 (n : Nat) : n &&& 15 = n % 16 := Nat.and_two_pow_sub_one_eq_mod n 4

/-- Settles O34: DAA and DAS make two adjustments (`toNat_add_adjust`, `toNat_sub_adjust`); AAA and AAS adjust or not,
and then keep the low digit (`and_15`). -/
theorem decimalAndAsciiAdjust : Obligations.DecimalAndAsciiAdjust := by
  refine ⟨fun s => ⟨_, rfl, ⟨if s.lowAdjust then 6 else 0, if s.highAdjust then 0x60 else 0, ?daa⟩, ⟨rfl, rfl, rfl⟩,
      changes_al s _ _⟩,
    fun s => ⟨_, rfl, ⟨if s.lowAdjust then 6 else 0, if s.highAdjust then 0x60 else 0, ?das⟩, ⟨rfl, rfl, rfl⟩,
      changes_al s _ _⟩,
    fun s => ⟨_, rfl, ?aaa, ⟨rfl, rfl, rfl⟩, changes_al_ah s _ _ _⟩,
    fun s => ⟨_, rfl, ?aas, ⟨rfl, rfl, rfl⟩, changes_al_ah s _ _ _⟩⟩
  case daa =>
    simp only [← lowAdjust_iff, ← highAdjust_iff, State.reg8_drew, State.reg8_setFlags, State.reg8_setReg8_same]
    exact ⟨fun h => if_pos h, fun h => if_neg h, fun h => if_pos h, fun h => if_neg h, toNat_add_adjust _ _ _,
      State.reg8_setReg8 _ _ _ _, Iff.rfl, Iff.rfl, (szpOf_setSZP (by decide) _ s.flags).congr rfl rfl rfl⟩
  case das =>
    simp only [← lowAdjust_iff, ← highAdjust_iff, State.reg8_drew, State.reg8_setFlags, State.reg8_setReg8_same]
    refine ⟨fun h => if_pos h, fun h => if_neg h, fun h => if_pos h, fun h => if_neg h, toNat_sub_adjust _ _ _,
      State.reg8_setReg8 _ _ _ _, Iff.rfl, ?_, (szpOf_setSZP (by decide) _ s.flags).congr rfl rfl rfl⟩
    cases hlow : s.lowAdjust
    · simp [highAdjust_iff]
    · simp [highAdjust_iff, or_assoc]
  case aaa =>
    simp only [← lowAdjust_iff]
    cases hlow : s.lowAdjust
    · simp [State.reg8_setReg8, State.asciiFlags, and_15]
    · simp [State.reg8_setReg8, State.asciiFlags, and_15, BitVec.toNat_add]
  case aas =>
    simp only [← lowAdjust_iff]
    cases hlow : s.lowAdjust
    · simp [State.reg8_setReg8, State.asciiFlags, and_15]
    · have hal (n : Nat) : (250 + n) % 16 = (n + 10) % 16 := by omega
      simp [State.reg8_setReg8, State.asciiFlags, and_15, BitVec.toNat_sub, hal, Nat.add_comm 255]

/-- Settles O35: AAM is the exact division by the base (`Nat.div_add_mod'`), and raises on base 0; AAD writes AL
modulo 2^8. -/
theorem asciiBaseConversion : Obligations.AsciiBaseConversion := by
  refine ⟨fun s b hb => ⟨_, if_neg (by rintro rfl; exact hb rfl), ?split, ?below, ?aamFlags, ⟨rfl, rfl, rfl⟩,
      (changes_setReg8_setReg8 s .ah .al _ _ rfl).setFlags_drew _ 6⟩,
    fun s => ⟨_, rfl, raised_interrupt s 0#8⟩,
    fun s b => ⟨_, rfl, ?gather, ?clear, ?aadFlags, ⟨rfl, rfl, rfl⟩, changes_al_ah s _ _ _⟩⟩
  case split => simpa [State.reg8_setReg8] using Nat.div_add_mod' _ _
  case below => simpa using Nat.mod_lt _ (Nat.pos_of_ne_zero hb)
  case aamFlags =>
    rw [State.reg8_drew, State.reg8_setFlags, State.reg8_setReg8_same]
    exact szpOf_baseFlags s _
  case gather => simp [State.reg8_setReg8]
  case clear => simp
  case aadFlags =>
    rw [State.reg8_drew, State.reg8_setFlags, State.reg8_setReg8, if_neg (by decide), State.reg8_setReg8_same]
    exact szpOf_baseFlags s _

end Sys2Proof.Machine
end

section
namespace Sys2Proof.Machine

/-! ## The logic and shift family (41_logic_shift.md R190 to R206, 46_ext186.md R389, R392)

AND, OR and XOR are the two-operand template (`alu8_and` and so on). The shifts and rotates are one operation on a
resolved operand, whatever the form: by 1, by CL and by an immediate differ in the byte that gives the count. -/

/-- Settles O27: every form is the template of R140 (`alu8_and`, `alu8_or`, `alu8_xor` and their word versions). -/
theorem logicalForms : Obligations.LogicalForms :=
  ⟨fun s e _ => ⟨_, rfl, alu8_and s e _⟩, fun s e _ => ⟨_, rfl, alu16_and s e _⟩,
    fun s g _ => ⟨_, rfl, alu8_and s (.reg g) _⟩, fun s g _ => ⟨_, rfl, alu16_and s (.reg g) _⟩,
    fun s b => ⟨_, rfl, alu8_and s (.reg .al) b⟩, fun s w => ⟨_, rfl, alu16_and s (.reg .ax) w⟩,
    fun s e b => ⟨_, rfl, alu8_and s e b⟩, fun s e w => ⟨_, rfl, alu16_and s e w⟩,
    fun s e b => ⟨_, rfl, alu16_and s e (sext16 b)⟩,
    fun s e _ => ⟨_, rfl, alu8_or s e _⟩, fun s e _ => ⟨_, rfl, alu16_or s e _⟩,
    fun s g _ => ⟨_, rfl, alu8_or s (.reg g) _⟩, fun s g _ => ⟨_, rfl, alu16_or s (.reg g) _⟩,
    fun s b => ⟨_, rfl, alu8_or s (.reg .al) b⟩, fun s w => ⟨_, rfl, alu16_or s (.reg .ax) w⟩,
    fun s e b => ⟨_, rfl, alu8_or s e b⟩, fun s e w => ⟨_, rfl, alu16_or s e w⟩,
    fun s e b => ⟨_, rfl, alu16_or s e (sext16 b)⟩,
    fun s e _ => ⟨_, rfl, alu8_xor s e _⟩, fun s e _ => ⟨_, rfl, alu16_xor s e _⟩,
    fun s g _ => ⟨_, rfl, alu8_xor s (.reg g) _⟩, fun s g _ => ⟨_, rfl, alu16_xor s (.reg g) _⟩,
    fun s b => ⟨_, rfl, alu8_xor s (.reg .al) b⟩, fun s w => ⟨_, rfl, alu16_xor s (.reg .ax) w⟩,
    fun s e b => ⟨_, rfl, alu8_xor s e b⟩, fun s e w => ⟨_, rfl, alu16_xor s e w⟩,
    fun s e b => ⟨_, rfl, alu16_xor s e (sext16 b)⟩⟩

/-! ### What a shift or rotate does, for every count (R198, R199)

The byte `n` gives the count `k`: with count 0 nothing changes (`shift8_zero`), else the operand and the flags are those
of the whole count (`shift8_spec`). `Sets` is what the operation says of the flags. -/

section
variable (s : State) {op : ShiftOp} {n : Byte} {k : Nat}

theorem shift8_done {Sets : Shifted 8 → Nat → Flags → Flags → Prop}
    (hsets : ∀ k v c, Sets (op.arith v c k) k s.flags
      (s.shiftFlags op k v (op.arith v c k).value (op.arith v c k).carry)) (e : Eb) (hk : s.countOf n = k) :
    if k = 0 then Changes s (s.shift8 op (s.loc e) n) [] [] []
    else Wrote8 s (s.shift8 op (s.loc e) n) e (op.arith (s.readEb e) s.flags.CF k).value [.flags] ∧
      Sets (op.arith (s.readEb e) s.flags.CF k) k s.flags (s.shift8 op (s.loc e) n).flags := by
  subst hk
  split
  case isTrue h => exact shift8_zero s op e n h
  case isFalse h =>
    obtain ⟨hw, hf⟩ := shift8_spec s op e n h
    exact ⟨hw, hf ▸ hsets _ _ _⟩

theorem shift16_done {Sets : Shifted 16 → Nat → Flags → Flags → Prop}
    (hsets : ∀ k v c, Sets (op.arith v c k) k s.flags
      (s.shiftFlags op k v (op.arith v c k).value (op.arith v c k).carry)) (e : Ew) (hk : s.countOf n = k) :
    if k = 0 then Changes s (s.shift16 op (s.loc e) n) [] [] []
    else Wrote16 s (s.shift16 op (s.loc e) n) e (op.arith (s.readEw e) s.flags.CF k).value [.flags] ∧
      Sets (op.arith (s.readEw e) s.flags.CF k) k s.flags (s.shift16 op (s.loc e) n).flags := by
  subst hk
  split
  case isTrue h => exact shift16_zero s op e n h
  case isFalse h =>
    obtain ⟨hw, hf⟩ := shift16_spec s op e n h
    exact ⟨hw, hf ▸ hsets _ _ _⟩

theorem shiftDone8 (ho : op.isShift = true) (e : Eb) (hk : s.countOf n = k) :
    ShiftDone8 s (s.shift8 op (s.loc e) n) e k (op.arith (s.readEb e) s.flags.CF k) :=
  shift8_done s (shiftFlags_shift (by decide) s ho) e hk

theorem shiftDone16 (ho : op.isShift = true) (e : Ew) (hk : s.countOf n = k) :
    ShiftDone16 s (s.shift16 op (s.loc e) n) e k (op.arith (s.readEw e) s.flags.CF k) :=
  shift16_done s (shiftFlags_shift (by decide) s ho) e hk

theorem rotateDone8 (ho : op.isShift = false) (e : Eb) (hk : s.countOf n = k) :
    RotateDone8 s (s.shift8 op (s.loc e) n) e k (op.arith (s.readEb e) s.flags.CF k) :=
  shift8_done s (shiftFlags_rotate (by decide) s ho) e hk

theorem rotateDone16 (ho : op.isShift = false) (e : Ew) (hk : s.countOf n = k) :
    RotateDone16 s (s.shift16 op (s.loc e) n) e k (op.arith (s.readEw e) s.flags.CF k) :=
  shift16_done s (shiftFlags_rotate (by decide) s ho) e hk

end

/-- Settles O36: every form is the shift for every count (`shiftDone8`, `shiftDone16`). -/
theorem shiftForms : Obligations.ShiftForms :=
  ⟨fun s e => ⟨_, rfl, shiftDone8 s rfl e (countOf_one s)⟩, fun s e => ⟨_, rfl, shiftDone16 s rfl e (countOf_one s)⟩,
    fun s e => ⟨_, rfl, shiftDone8 s rfl e rfl⟩, fun s e => ⟨_, rfl, shiftDone16 s rfl e rfl⟩,
    fun s e _ => ⟨_, rfl, shiftDone8 s rfl e rfl⟩, fun s e _ => ⟨_, rfl, shiftDone16 s rfl e rfl⟩,
    fun s e => ⟨_, rfl, shiftDone8 s rfl e (countOf_one s)⟩, fun s e => ⟨_, rfl, shiftDone16 s rfl e (countOf_one s)⟩,
    fun s e => ⟨_, rfl, shiftDone8 s rfl e rfl⟩, fun s e => ⟨_, rfl, shiftDone16 s rfl e rfl⟩,
    fun s e _ => ⟨_, rfl, shiftDone8 s rfl e rfl⟩, fun s e _ => ⟨_, rfl, shiftDone16 s rfl e rfl⟩,
    fun s e => ⟨_, rfl, shiftDone8 s rfl e (countOf_one s)⟩, fun s e => ⟨_, rfl, shiftDone16 s rfl e (countOf_one s)⟩,
    fun s e => ⟨_, rfl, shiftDone8 s rfl e rfl⟩, fun s e => ⟨_, rfl, shiftDone16 s rfl e rfl⟩,
    fun s e _ => ⟨_, rfl, shiftDone8 s rfl e rfl⟩, fun s e _ => ⟨_, rfl, shiftDone16 s rfl e rfl⟩⟩

/-- Settles O37: every form is the rotate for every count (`rotateDone8`, `rotateDone16`). -/
theorem rotateForms : Obligations.RotateForms :=
  ⟨fun s e => ⟨_, rfl, rotateDone8 s rfl e (countOf_one s)⟩, fun s e => ⟨_, rfl, rotateDone16 s rfl e (countOf_one s)⟩,
    fun s e => ⟨_, rfl, rotateDone8 s rfl e rfl⟩, fun s e => ⟨_, rfl, rotateDone16 s rfl e rfl⟩,
    fun s e _ => ⟨_, rfl, rotateDone8 s rfl e rfl⟩, fun s e _ => ⟨_, rfl, rotateDone16 s rfl e rfl⟩,
    fun s e => ⟨_, rfl, rotateDone8 s rfl e (countOf_one s)⟩, fun s e => ⟨_, rfl, rotateDone16 s rfl e (countOf_one s)⟩,
    fun s e => ⟨_, rfl, rotateDone8 s rfl e rfl⟩, fun s e => ⟨_, rfl, rotateDone16 s rfl e rfl⟩,
    fun s e _ => ⟨_, rfl, rotateDone8 s rfl e rfl⟩, fun s e _ => ⟨_, rfl, rotateDone16 s rfl e rfl⟩⟩

/-- Settles O38: every form is the rotate for every count, of a ring that CF belongs to (`run_rcl_ring`,
`run_rcr_ring`). -/
theorem rotateThroughCarryForms : Obligations.RotateThroughCarryForms :=
  ⟨fun s e => ⟨_, rfl, rotateDone8 s rfl e (countOf_one s)⟩, fun s e => ⟨_, rfl, rotateDone16 s rfl e (countOf_one s)⟩,
    fun s e => ⟨_, rfl, rotateDone8 s rfl e rfl⟩, fun s e => ⟨_, rfl, rotateDone16 s rfl e rfl⟩,
    fun s e _ => ⟨_, rfl, rotateDone8 s rfl e rfl⟩, fun s e _ => ⟨_, rfl, rotateDone16 s rfl e rfl⟩,
    fun s e => ⟨_, rfl, rotateDone8 s rfl e (countOf_one s)⟩, fun s e => ⟨_, rfl, rotateDone16 s rfl e (countOf_one s)⟩,
    fun s e => ⟨_, rfl, rotateDone8 s rfl e rfl⟩, fun s e => ⟨_, rfl, rotateDone16 s rfl e rfl⟩,
    fun s e _ => ⟨_, rfl, rotateDone8 s rfl e rfl⟩, fun s e _ => ⟨_, rfl, rotateDone16 s rfl e rfl⟩⟩

end Sys2Proof.Machine
end

section
namespace Sys2Proof.Machine

/-! ## The data-movement family (42_data_movement.md R220 to R251, 46_ext186.md R384, R385)

A move writes one resolved operand (`wrote8_operand`, `wrote16_operand`); a push, a pop and a port transaction are each
one shared operation, whatever the operand. -/

section
variable (s : State)

/-! ### A write and no other change (30_encoding.md R104, 20_memory.md R64) -/

theorem wrote8_operand (e : Eb) (v : Byte) : Wrote8 s (s.put8 (s.loc e) v) e v [] := wrote8_put8 (Changes.refl s) e v

theorem wrote16_operand (e : Ew) (v : Word) : Wrote16 s (s.put16 (s.loc e) v) e v [] :=
  wrote16_put16 (Changes.refl s) e v

theorem holdsWord_read16 (seg off : Word) : s.HoldsWord seg off (s.read16 seg off) :=
  (State.holdsWord_iff s seg off _).mpr rfl

/-- A register holds the word it was loaded with from `s`, whatever state it is written in. -/
theorem holdsWord_loaded (u : State) (r : Reg16) (seg off : Word) :
    s.HoldsWord seg off ((u.setReg16 r (s.read16 seg off)).reg16 r) := by
  rw [State.reg16_setReg16_same]
  exact holdsWord_read16 s seg off

theorem holdsWord_write16 (seg off v : Word) : (s.write16 seg off v).HoldsWord seg off v :=
  (State.holdsWord_iff _ seg off v).mpr (State.read16_write16 s seg off v)

end

/-- Settles O39: a register destination is the register operand; the forms with an offset address `sourceSeg`
(`dataSeg_ds`). -/
theorem moveForms : Obligations.MoveForms := by
  unfold Obligations.MoveForms
  simp only [← dataSeg_ds]
  exact ⟨fun s e _ => ⟨_, rfl, wrote8_operand s e _⟩, fun s e _ => ⟨_, rfl, wrote16_operand s e _⟩,
    fun s g _ => ⟨_, rfl, wrote8_operand s (.reg g) _⟩, fun s g _ => ⟨_, rfl, wrote16_operand s (.reg g) _⟩,
    fun s e b => ⟨_, rfl, wrote8_operand s e b⟩, fun s e w => ⟨_, rfl, wrote16_operand s e w⟩,
    fun s r b => ⟨_, rfl, wrote8_operand s (.reg r) b⟩, fun s r w => ⟨_, rfl, wrote16_operand s (.reg r) w⟩,
    fun s _ => ⟨_, rfl, wrote8_operand s (.reg .al) _⟩,
    fun s off => ⟨_, rfl, holdsWord_read16 s _ off, changes_setReg16 s .ax _⟩,
    fun s off => ⟨_, rfl, Memory.read_write_same _ _ _, changes_write8 s _ off _⟩,
    fun s off => ⟨_, rfl, holdsWord_write16 s _ off _, changes_write16 s _ off _⟩,
    fun s e _ => ⟨_, rfl, wrote16_operand s e _⟩,
    fun s _ => ⟨_, rfl, State.seg_setSeg_same s .es _, changes_setEs s _⟩,
    fun s _ => ⟨_, rfl, State.seg_setSeg_same s .ss _, changes_setSs s _⟩,
    fun s _ => ⟨_, rfl, State.seg_setSeg_same s .ds _, changes_setDs s _⟩⟩

/-! ### PUSH (R228 to R230, R247, 46_ext186.md R384, R385) -/

theorem pushed_pushReg (s : State) {r : Reg16} (hr : r ≠ .sp) : Pushed s (s.pushReg r) [s.reg16 r] [] [] := by
  rw [pushReg_eq_push16, if_neg hr]
  exact pushed_push16 s _

/-- SP is stored after the decrement (R228). -/
theorem pushed_pushReg_sp (s : State) : Pushed s (s.pushReg .sp) [s.below 2] [] [] := pushed_push16 s _

/-- Settles O40: every form pushes one word (`pushed_push16`), a register operand by `pushReg`. -/
theorem pushForms : Obligations.PushForms := by
  refine ⟨fun s _ hr => ⟨_, rfl, pushed_pushReg s hr⟩, fun s => ⟨_, rfl, pushed_pushReg_sp s⟩, fun s e he => ?_,
    fun s => ⟨_, rfl, pushed_pushReg_sp s⟩, fun s => ⟨_, rfl, pushed_push16 s _⟩, fun s => ⟨_, rfl, pushed_push16 s _⟩,
    fun s => ⟨_, rfl, pushed_push16 s _⟩, fun s => ⟨_, rfl, pushed_push16 s _⟩, fun s => ⟨_, rfl, pushed_push16 s _⟩,
    fun s w => ⟨_, rfl, pushed_push16 s w⟩, fun s b => ⟨_, rfl, pushed_push16 s (sext16 b)⟩⟩
  cases e with
  | reg r => exact ⟨_, rfl, pushed_pushReg s fun h => he (congrArg RM.reg h)⟩
  | mem m => exact ⟨_, rfl, pushed_push16 s _⟩

/-! ### POP (R231 to R233, R248) -/

section
variable (s : State)

theorem sp_drop16 : s.drop16.reg16 .sp = s.above 2 := (Popped.refl s).drop16.sp

/-- What follows the increment of SP adds to its frame. -/
theorem Changes.ofDrop16 {t : State} {bytes : List Nat} {parts : List Part} (h : Changes s.drop16 t [] bytes parts) :
    Changes s t [.sp] bytes parts :=
  (changes_drop16 s).trans h (by simp) (by simp) (by simp)

theorem popInto_spec {r : Reg16} (hr : r ≠ .sp) : (s.popInto r).reg16 r = s.top16 ∧
    (s.popInto r).reg16 .sp = s.above 2 ∧ Changes s (s.popInto r) [r, .sp] [] [] :=
  ⟨State.reg16_setReg16_same _ r _, ((Popped.refl s).popInto hr).sp,
    (changes_drop16 s).trans (changes_setReg16 _ r _) (by simp) (by simp) (by simp)⟩

/-- The increment of SP comes first, so the word popped stays in SP (R231). -/
theorem popInto_sp : (s.popInto .sp).reg16 .sp = s.top16 ∧ Changes s (s.popInto .sp) [.sp] [] [] :=
  ⟨State.reg16_setReg16_same _ .sp _,
    (changes_drop16 s).trans (changes_setReg16 _ .sp _) (by simp) (by simp) (by simp)⟩

end

/-- Settles O41: a register takes the word by `popInto`; any other destination is written after SP has moved
(`Changes.ofDrop16`). -/
theorem popForms : Obligations.PopForms := by
  unfold Obligations.PopForms
  simp only [← State.top16_eq]
  exact ⟨fun s _ hr => ⟨_, rfl, popInto_spec s hr⟩, fun s => ⟨_, rfl, popInto_sp s⟩,
    fun s _ hr => ⟨_, rfl, popInto_spec s hr⟩, fun s => ⟨_, rfl, popInto_sp s⟩,
    fun s m => ⟨_, rfl, sp_drop16 s, holdsWord_write16 s.drop16 _ (s.ea m) _, .ofDrop16 s (changes_write16 _ _ _ _)⟩,
    fun s => ⟨_, rfl, State.seg_setSeg_same _ .es _, sp_drop16 s, .ofDrop16 s (changes_setEs _ _)⟩,
    fun s => ⟨_, rfl, State.seg_setSeg_same _ .ss _, sp_drop16 s, .ofDrop16 s (changes_setSs _ _)⟩,
    fun s => ⟨_, rfl, State.seg_setSeg_same _ .ds _, sp_drop16 s, .ofDrop16 s (changes_setDs _ _)⟩,
    fun s => ⟨_, rfl, flagsFrom_ofImage _, sp_drop16 s, .ofDrop16 s (changes_setFlags _ _)⟩⟩

/-! ### XCHG (R236, R237) -/

/-- Each of two registers set to what the other held. -/
def State.trade8 (s : State) (r g : Reg8) : State := (s.setReg8 r (s.reg8 g)).setReg8 g (s.reg8 r)

def State.trade16 (s : State) (r g : Reg16) : State := (s.setReg16 r (s.reg16 g)).setReg16 g (s.reg16 r)

/-! The two registers may be the same one. -/

section
variable (s : State)

theorem trade8_spec (r g : Reg8) : (s.trade8 r g).reg8 r = s.reg8 g ∧ (s.trade8 r g).reg8 g = s.reg8 r ∧
    (∀ q, q ≠ r → q ≠ g → (s.trade8 r g).reg8 q = s.reg8 q) ∧
    Changes s (s.trade8 r g) [Reg8.home r, Reg8.home g] [] [] := by
  refine ⟨?_, State.reg8_setReg8_same _ g _, fun q hr hg => ?_, changes_setReg16_setReg16 s _ _ _ _⟩
  · rw [State.trade8, State.reg8_setReg8, State.reg8_setReg8_same]
    split
    case isTrue h => rw [h]
    case isFalse => rfl
  · rw [State.trade8, State.reg8_setReg8, if_neg hg, State.reg8_setReg8, if_neg hr]

theorem trade16_spec (r g : Reg16) : (s.trade16 r g).reg16 r = s.reg16 g ∧ (s.trade16 r g).reg16 g = s.reg16 r ∧
    Changes s (s.trade16 r g) [r, g] [] [] := by
  refine ⟨?_, State.reg16_setReg16_same _ g _, changes_setReg16_setReg16 s r g _ _⟩
  rw [State.trade16, State.reg16_setReg16, State.reg16_setReg16_same]
  split
  case isTrue h => rw [h]
  case isFalse => rfl

end

/-- Settles O42: two registers trade (`trade8_spec`, `trade16_spec`); a memory operand is written and then the
register. -/
theorem exchangeForms : Obligations.ExchangeForms := by
  refine ⟨fun s r g => ⟨_, rfl, trade8_spec s r g⟩,
    fun s m g => ⟨_, rfl, Memory.read_write_same _ _ _, State.reg8_setReg8_same _ g _, fun q hq => ?_,
      (changes_write8 s _ _ _).trans (changes_setReg8 _ g _) (by simp) (by simp) (by simp)⟩,
    fun s r g => ⟨_, rfl, trade16_spec s r g⟩,
    fun s m g => ⟨_, rfl, holdsWord_write16 s _ _ _, holdsWord_loaded s _ g _ _,
      (changes_write16 s _ _ _).trans (changes_setReg16 _ g _) (by simp) (by simp) (by simp)⟩,
    fun s => ⟨_, rfl, trade16_spec s .ax .cx⟩, fun s => ⟨_, rfl, trade16_spec s .ax .dx⟩,
    fun s => ⟨_, rfl, trade16_spec s .ax .bx⟩, fun s => ⟨_, rfl, trade16_spec s .ax .sp⟩,
    fun s => ⟨_, rfl, trade16_spec s .ax .bp⟩, fun s => ⟨_, rfl, trade16_spec s .ax .si⟩,
    fun s => ⟨_, rfl, trade16_spec s .ax .di⟩⟩
  rw [State.reg8_setReg8, if_neg hq]
  rfl

/-! ### XLAT, LEA, LDS and LES (R238, R240 to R242) -/

/-- A byte index is added unsigned, modulo 2^16 (R238). -/
theorem add_zext16 (v : Word) (b : Byte) : v + zext16 b = BitVec.ofNat 16 (v.toNat + b.toNat) := by
  rw [BitVec.ofNat_add, BitVec.ofNat_toNat, BitVec.ofNat_toNat, BitVec.setWidth_eq]
  rfl

/-- Settles O43: XLAT and LEA write a register operand; LDS and LES read both words of the pointer from the old state
(`holdsWord_loaded`, `holdsWord_read16`). -/
theorem tableAndPointerLoads : Obligations.TableAndPointerLoads := by
  unfold Obligations.TableAndPointerLoads
  simp only [← dataSeg_ds, ← add_zext16]
  exact ⟨fun s => ⟨_, rfl, wrote8_operand s (.reg .al) _⟩,
    fun s g m => ⟨_, rfl, wrote16_operand s (.reg g) (s.ea m)⟩,
    fun s g m => ⟨_, rfl, holdsWord_loaded s s g _ _, holdsWord_read16 s _ _,
      (changes_setReg16 s g _).trans (changes_setDs _ _) (by simp) (by simp) (by simp)⟩,
    fun s g m => ⟨_, rfl, holdsWord_loaded s s g _ _, holdsWord_read16 s _ _,
      (changes_setReg16 s g _).trans (changes_setEs _ _) (by simp) (by simp) (by simp)⟩⟩

/-! ### LAHF and SAHF (R245, R246) -/

/-- The low byte of the image is five flags and the fixed bit 1 (10_state.md R31). -/
theorem toNat_lo_image (f : Flags) : (Word.lo f.image).toNat =
    f.SF.toNat * 128 + f.ZF.toNat * 64 + f.AF.toNat * 16 + f.PF.toNat * 4 + 2 + f.CF.toNat := by
  have hs := f.SF.toNat_le
  have hz := f.ZF.toNat_le
  have ha := f.AF.toNat_le
  have hp := f.PF.toNat_le
  have hc := f.CF.toNat_le
  rw [Word.lo_toNat, image_toNat]
  omega

/-- Settles O44: the decoder is run on the two encodings; LAHF writes the low byte of the image (`toNat_lo_image`). -/
theorem flagByteTransfers : Obligations.FlagByteTransfers := by
  refine ⟨fun _ _ => rfl, fun _ _ => rfl, fun s => ?lahf,
    fun s => ⟨_, rfl, rfl, rfl, rfl, rfl, rfl, rfl, ⟨rfl, rfl, rfl⟩, changes_setFlags s _⟩⟩
  case lahf =>
    obtain ⟨hah, hother, hframe⟩ := wrote8_operand s (.reg .ah) (Word.lo s.flags.image)
    exact ⟨_, rfl, (congrArg BitVec.toNat hah).trans (toNat_lo_image _), hother, hframe⟩

/-! ### IN and OUT (R250, R251) -/

section
variable (s : State) (port : Word)

theorem changes_ioRead8 : Changes s (s.ioRead8 port) [] [] [.io] :=
  (changes_logIo s _).trans (changes_drew _ 1) (by simp) (by simp) (by simp)

theorem changes_ioRead16 : Changes s (s.ioRead16 port) [] [] [.io] :=
  (changes_logIo s _).trans (changes_drew _ 1) (by simp) (by simp) (by simp)

/-- The value recorded is the one that lands in AL, and AH is kept. -/
theorem inAl_spec : (s.inAl port).io = .read8 port ((s.inAl port).reg8 .al) :: s.io ∧
    (∀ q, q ≠ .al → (s.inAl port).reg8 q = s.reg8 q) ∧ Changes s (s.inAl port) [.ax] [] [.io] := by
  obtain ⟨hal, hframe⟩ := wrote8_put8 (changes_ioRead8 s port) (.reg .al) (s.ioValue8 port)
  exact ⟨congrArg (IoEvent.read8 port · :: s.io) hal.symm, hframe⟩

theorem inAx_spec : (s.inAx port).io = .read16 port ((s.inAx port).reg16 .ax) :: s.io ∧
    Changes s (s.inAx port) [.ax] [] [.io] := by
  obtain ⟨hax, hframe⟩ := wrote16_put16 (changes_ioRead16 s port) (.reg .ax) (s.ioValue16 port)
  exact ⟨congrArg (IoEvent.read16 port · :: s.io) hax.symm, hframe⟩

end

/-- Settles O45: an IN is `inAl` or `inAx` at its port; an OUT records its transaction and changes nothing else. -/
theorem portForms : Obligations.PortForms :=
  ⟨fun s b => ⟨_, rfl, inAl_spec s (zext16 b)⟩, fun s => ⟨_, rfl, inAl_spec s (s.reg16 .dx)⟩,
    fun s b => ⟨_, rfl, inAx_spec s (zext16 b)⟩, fun s => ⟨_, rfl, inAx_spec s (s.reg16 .dx)⟩,
    fun s _ => ⟨_, rfl, rfl, changes_logIo s _⟩, fun s _ => ⟨_, rfl, rfl, changes_logIo s _⟩,
    fun s => ⟨_, rfl, rfl, changes_logIo s _⟩, fun s => ⟨_, rfl, rfl, changes_logIo s _⟩⟩

end Sys2Proof.Machine
end

section
namespace Sys2Proof.Machine

/-! ## The control transfer family (43_control_transfer.md R270 to R300, 60_exceptions.md R412 to R415)

A jump writes IP and perhaps CS; a call is pushes and then a jump (`pushed_callNear`, `pushed_callFar`); a return is pops
and then a release; the conditional jumps and the loops are one jump on a Boolean (`branched_jumpIf`). -/

/-! ### JMP (R270 to R274) -/

theorem changes_jumpFar (s : State) (sel off : Word) : Changes s (s.jumpFar sel off) [] [] [.ip, .cs] :=
  (changes_setCs s sel).trans (changes_setIp _ off) (by simp) (by simp) (by simp)

/-- Settles O46: a near jump writes IP, a far jump CS too (`changes_jumpFar`); the displacement of JMP cb is signed
(`add_sext16`). -/
theorem jumpForms : Obligations.JumpForms :=
  ⟨fun s d => ⟨_, rfl, add_sext16 s.ip d, changes_setIp s _⟩,
    fun s d => ⟨_, rfl, BitVec.toNat_add s.ip d, changes_setIp s _⟩,
    fun s e => ⟨_, rfl, rfl, changes_setIp s (s.readEw e)⟩,
    fun s off sel => ⟨_, rfl, rfl, State.seg_setSeg_same s .cs sel, changes_jumpFar s sel off⟩,
    fun s m => ⟨_, rfl, holdsWord_read16 s _ _, holdsWord_read16 s _ _, changes_jumpFar s (s.farSel m) (s.farOff m)⟩⟩

/-! ### CALL (R276 to R279) -/

/-- `pushed_callFar`, with IP and CS in the order of the frame of a far jump. -/
theorem pushed_callFar_ip_cs (s : State) (sel off : Word) :
    Pushed s (s.pushCsIp.jumpFar sel off) [s.seg .cs, s.ip] [] [.ip, .cs] :=
  (pushed_callFar s sel off).trans (Changes.refl _) (by simp)

/-- Settles O47: the pushes leave the target as it was read; a pointer in memory is read from the old state
(`holdsWord_read16`). -/
theorem callForms : Obligations.CallForms :=
  ⟨fun s d => ⟨_, rfl, BitVec.toNat_add s.ip d, pushed_callNear s (s.ip + d)⟩,
    fun s e => ⟨_, rfl, rfl, pushed_callNear s (s.readEw e)⟩,
    fun s off sel => ⟨_, rfl, rfl, State.seg_setSeg_same _ .cs sel, pushed_callFar_ip_cs s sel off⟩,
    fun s m => ⟨_, rfl, holdsWord_read16 s _ _, holdsWord_read16 s _ _,
      pushed_callFar_ip_cs s (s.farSel m) (s.farOff m)⟩⟩

/-! ### RET and RETF (R281 to R284) -/

section
variable (s : State)

theorem retNear_spec : s.retNear.ip = s.stackWord 0 ∧ s.retNear.reg16 .sp = s.above 2 ∧
    Changes s s.retNear [.sp] [] [.ip] :=
  ⟨State.top16_eq s, sp_drop16 s, .ofDrop16 s (changes_setIp _ _)⟩

theorem retFar_spec : s.retFar.ip = s.stackWord 0 ∧ s.retFar.seg .cs = s.stackWord 1 ∧
    s.retFar.reg16 .sp = s.above 4 ∧ Changes s s.retFar [.sp] [] [.ip, .cs] := by
  have hpop : Popped s s.retNear 1 := (Popped.refl s).drop16.setIp _
  obtain ⟨hip, -, hnear⟩ := retNear_spec s
  have hdrop : Changes s s.retNear.drop16 [.sp] [] [.ip] := hnear.trans (changes_drop16 _) (by simp) (by simp) (by simp)
  exact ⟨hip, hpop.top16, hpop.drop16.sp, hdrop.trans (changes_setCs _ _) (by simp) (by simp) (by simp)⟩

theorem above_add (k : Nat) (w : Word) : s.above k + w = s.above (k + w.toNat) := by
  rw [State.above, State.above, BitVec.ofNat_add, BitVec.ofNat_toNat, BitVec.setWidth_eq, BitVec.add_assoc]

end

/-- The release of arguments moves SP further, by an unsigned count (R282, R284). -/
theorem release_spec {s t : State} {k : Nat} {parts : List Part} (hsp : t.reg16 .sp = s.above k)
    (hc : Changes s t [.sp] [] parts) (w : Word) :
    (t.release w).reg16 .sp = s.above (k + w.toNat) ∧ Changes s (t.release w) [.sp] [] parts := by
  refine ⟨?_, hc.trans (changes_setReg16 t .sp _) (by simp) (by simp) (by simp)⟩
  rw [State.release, State.reg16_setReg16_same, hsp, above_add]

/-- Settles O48: the decoder is run on the four encodings; a return with an immediate is the return without one
(`retNear_spec`, `retFar_spec`) and then the release. -/
theorem returnForms : Obligations.ReturnForms := by
  refine ⟨fun _ _ => rfl, fun _ _ _ _ => rfl, fun _ _ => rfl, fun _ _ _ _ => rfl,
    fun s => ⟨_, rfl, retNear_spec s⟩, fun s w => ?retIw, fun s => ⟨_, rfl, retFar_spec s⟩, fun s w => ?retfIw⟩
  case retIw =>
    obtain ⟨hip, hsp, hc⟩ := retNear_spec s
    exact ⟨_, rfl, hip, release_spec hsp hc w⟩
  case retfIw =>
    obtain ⟨hip, hcs, hsp, hc⟩ := retFar_spec s
    exact ⟨_, rfl, hip, hcs, release_spec hsp hc w⟩

/-! ### Conditional jumps (R286) -/

/-- The condition of each mnemonic, as R286 lists it. -/
def Cond.Asks (f : Flags) : Cond → Prop
  | .o => f.OF = true
  | .no => f.OF = false
  | .b => f.CF = true
  | .nb => f.CF = false
  | .e => f.ZF = true
  | .ne => f.ZF = false
  | .be => f.CF = true ∨ f.ZF = true
  | .a => f.CF = false ∧ f.ZF = false
  | .s => f.SF = true
  | .ns => f.SF = false
  | .p => f.PF = true
  | .np => f.PF = false
  | .l => f.SF ≠ f.OF
  | .ge => f.SF = f.OF
  | .le => f.ZF = true ∨ f.SF ≠ f.OF
  | .g => f.ZF = false ∧ f.SF = f.OF

theorem Cond.holds_iff (c : Cond) (f : Flags) : c.holds f = true ↔ c.Asks f := by
  cases c <;> simp [Cond.holds, Cond.Asks]

theorem branched_cond (s : State) (c : Cond) (d : Byte) :
    Branched s (s.jumpIf (c.holds s.flags) d) (c.Asks s.flags) d :=
  branched_jumpIf s (c.holds_iff s.flags) d

/-- Settles O49: the decoder is run on the sixteen encodings; each jump is the one on its condition
(`branched_cond`). -/
theorem conditionalJumps : Obligations.ConditionalJumps :=
  ⟨fun _ _ _ => rfl, fun _ _ _ => rfl, fun _ _ _ => rfl, fun _ _ _ => rfl, fun _ _ _ => rfl, fun _ _ _ => rfl,
    fun _ _ _ => rfl, fun _ _ _ => rfl, fun _ _ _ => rfl, fun _ _ _ => rfl, fun _ _ _ => rfl, fun _ _ _ => rfl,
    fun _ _ _ => rfl, fun _ _ _ => rfl, fun _ _ _ => rfl, fun _ _ _ => rfl,
    fun s d => ⟨_, rfl, branched_cond s .o d⟩, fun s d => ⟨_, rfl, branched_cond s .no d⟩,
    fun s d => ⟨_, rfl, branched_cond s .b d⟩, fun s d => ⟨_, rfl, branched_cond s .nb d⟩,
    fun s d => ⟨_, rfl, branched_cond s .e d⟩, fun s d => ⟨_, rfl, branched_cond s .ne d⟩,
    fun s d => ⟨_, rfl, branched_cond s .be d⟩, fun s d => ⟨_, rfl, branched_cond s .a d⟩,
    fun s d => ⟨_, rfl, branched_cond s .s d⟩, fun s d => ⟨_, rfl, branched_cond s .ns d⟩,
    fun s d => ⟨_, rfl, branched_cond s .p d⟩, fun s d => ⟨_, rfl, branched_cond s .np d⟩,
    fun s d => ⟨_, rfl, branched_cond s .l d⟩, fun s d => ⟨_, rfl, branched_cond s .ge d⟩,
    fun s d => ⟨_, rfl, branched_cond s .le d⟩, fun s d => ⟨_, rfl, branched_cond s .g d⟩⟩

/-! ### LOOP, LOOPE, LOOPNE and JCXZ (R288 to R291) -/

/-- Every loop counts CX down first; the jump tests the new CX. -/
theorem looped_jumpIf (s : State) {also : Prop} {c : Bool} (h : c = true ↔ s.decCx.reg16 .cx ≠ 0#16 ∧ also)
    (d : Byte) : Looped s (s.decCx.jumpIf c d) also d := by
  obtain ⟨htaken, hnot, hjump⟩ := branched_jumpIf s.decCx h d
  have hcx : (s.decCx.jumpIf c d).reg16 .cx = s.decCx.reg16 .cx := hjump.regs .cx (by simp)
  rw [Looped, hcx]
  refine ⟨?_, htaken, hnot, (changes_setReg16 s .cx _).trans hjump (by simp) (by simp) (by simp)⟩
  rw [State.decCx, State.reg16_setReg16_same, BitVec.toNat_sub, Nat.add_comm]
  rfl

/-- Settles O50: the decoder is run on the four encodings; a loop is `looped_jumpIf` on its test of CX and ZF, JCXZ a
jump on its test of CX. -/
theorem loopForms : Obligations.LoopForms :=
  ⟨fun _ _ _ => rfl, fun _ _ _ => rfl, fun _ _ _ => rfl, fun _ _ _ => rfl,
    fun s d => ⟨_, rfl, looped_jumpIf s (by simp) d⟩, fun s d => ⟨_, rfl, looped_jumpIf s (by simp) d⟩,
    fun s d => ⟨_, rfl, looped_jumpIf s (by simp) d⟩, fun s d => ⟨_, rfl, branched_jumpIf s beq_iff_eq d⟩⟩

/-! ### INT, INT3, INTO, Invalid and IRET (R295 to R300, 45_system.md R365) -/

/-- Settles O51: each raises its vector (`raised_interrupt`), INTO only when OF is set; IRET is `returned_iret`. -/
theorem softwareInterrupts : Obligations.SoftwareInterrupts := by
  refine ⟨fun s n => ⟨_, rfl, raised_interrupt s n⟩, fun s => ⟨_, rfl, raised_interrupt s 3#8⟩,
    fun s => ⟨_, rfl, fun hof => ?set, fun hof => ?clear⟩, fun s _ => ⟨_, rfl, raised_interrupt s 6#8⟩,
    fun s => ⟨_, rfl, returned_iret s⟩⟩
  case set => rw [if_pos hof]; exact raised_interrupt s 4#8
  case clear => rw [if_neg (Bool.eq_false_iff.mp hof)]; exact Changes.refl s

/-- IRET after an entry through the vector leaves nothing changed but the six bytes of the frame: what it does not pop
was not written, and what it pops was pushed (R300, R412). -/
theorem Vectored.changes_of_returned {s t u : State} {n : Byte} (ht : Vectored s t n) (hu : Returned t u) :
    Changes s u [] (s.stackBytes 6) [] := by
  obtain ⟨hpush, -, -, -⟩ := ht
  obtain ⟨hip, hcs, hflags, hsp, hret⟩ := hu
  have hframe : Changes s u [.sp] (s.stackBytes 6) [.flags, .cs, .ip] :=
    hpush.2.2.trans hret (by simp) (by simp) (by simp)
  refine ⟨fun r _ => ?_, hframe.bytes, fun p _ => ?_⟩
  · by_cases hr : r = .sp
    · rw [hr, hsp]
      exact (hpush.above (j := 3) le_rfl).trans (below_zero s)
    · exact hframe.regs r (by simpa using hr)
  · cases p with
    | ip => exact hip.trans (hpush.stackWord (by simp) rfl)
    | cs => exact hcs.trans (hpush.stackWord (by simp) rfl)
    | flags =>
      rw [hpush.stackWord (by simp) rfl] at hflags
      exact hflags.unique (flagsFrom_image s.flags)
    | _ => exact hframe.parts _ (by simp)

theorem Changes.seg_eq {s t : State} {regs : List Reg16} {bytes : List Nat} (h : Changes s t regs bytes []) (r : SReg) :
    t.seg r = s.seg r := by
  cases r with
  | es => exact h.parts .es (by simp)
  | cs => exact h.parts .cs (by simp)
  | ss => exact h.parts .ss (by simp)
  | ds => exact h.parts .ds (by simp)

/-- Settles O59: with no handler registered the entry is through the vector, and IRET undoes it
(`Vectored.changes_of_returned`). -/
theorem interruptThenIret : Obligations.InterruptThenIret := by
  intro s t u n hn ht hu
  cases ht
  cases hu
  obtain ⟨hhandler, -⟩ | ⟨-, hvectored⟩ := raised_interrupt s n
  · exact absurd (hn.symm.trans hhandler) Bool.false_ne_true
  · have hc := hvectored.changes_of_returned (returned_iret _)
    exact ⟨hc.parts .ip (by simp), hc.parts .flags (by simp), hc.seg_eq, fun r => hc.regs r (by simp), hc.bytes⟩

end Sys2Proof.Machine
end

section
namespace Sys2Proof.Machine

/-! ## The string family (44_string.md R320 to R333, 46_ext186.md R387, R388)

An element of a string instruction is a transfer and then a move of the indices; `exec_string` ties the two to the model,
`elementDone` says what one element does, and `Ran` what any number of them have done. -/

/-! ### The fourteen instructions as transfers -/

/-- The size of `n` elements in bytes (R320). -/
def elementBytes (i : Instr) (n : Nat) : Nat := if i.byteElement then n else 2 * n

/-- What one element does before the indices move (R321 to R325, R387, R388). -/
def transfer (i : Instr) (s : State) : State :=
  match i with
  | .movsb => s.putDst8 s.src8
  | .movsw => s.putDst16 s.src16
  | .lodsb => s.setReg8 .al s.src8
  | .lodsw => s.setReg16 .ax s.src16
  | .cmpsb => s.setFlags (subFlags s.src8 s.dst8 false s.flags)
  | .cmpsw => s.setFlags (subFlags s.src16 s.dst16 false s.flags)
  | .scasb => s.setFlags (subFlags (s.reg8 .al) s.dst8 false s.flags)
  | .scasw => s.setFlags (subFlags (s.reg16 .ax) s.dst16 false s.flags)
  | .stosb => s.putDst8 (s.reg8 .al)
  | .stosw => s.putDst16 (s.reg16 .ax)
  | .insb => (s.ioRead8 (s.reg16 .dx)).putDst8 (s.ioValue8 (s.reg16 .dx))
  | .insw => (s.ioRead16 (s.reg16 .dx)).putDst16 (s.ioValue16 (s.reg16 .dx))
  | .outsb => s.ioWrite8 (s.reg16 .dx) s.src8
  | .outsw => s.ioWrite16 (s.reg16 .dx) s.src16
  | _ => s

/-- The index `r` moved by one element where the instruction steps it. -/
def State.stepIf (s : State) (steps : Bool) (r : Reg16) (n : Nat) : State :=
  if steps then s.stepIndex r (BitVec.ofNat 16 n) else s

/-- One element: the transfer, then SI and DI as the instruction steps them (R320). -/
def element (i : Instr) (s : State) : State :=
  ((transfer i s).stepIf i.stepsSi .si (elementBytes i 1)).stepIf i.stepsDi .di (elementBytes i 1)

/-- The exit test: of CMPS and SCAS on ZF, of the others none (R331). -/
def exitTest (i : Instr) : Rep → State → Bool := if i.comparesStrings then exitOnZF else neverExit

theorem exec_string {i : Instr} (hi : i.isString = true) (s : State) :
    exec i s = .next (s.stringOp (element i) (exitTest i)) := by
  cases i with
  | movsb | movsw | lodsb | lodsw | cmpsb | cmpsw | scasb | scasw | stosb | stosw | insb | insw | outsb | outsw => rfl
  | _ => cases hi

section
variable {i : Instr} (hi : i.isString = true) {s : State}
include hi

theorem exec_unrepeated (hs : s.pfx.rep = none) : exec i s = .next (element i s) := by
  rw [exec_string hi, State.stringOp, hs]

theorem exec_repeated {r : Rep} (hs : s.pfx.rep = some r) :
    exec i s = .next (repLoop (element i) (exitTest i r) (s.reg16 .cx).toNat s) := by
  rw [exec_string hi, State.stringOp, hs]

end

/-- The loop exits where CMPS or SCAS leaves ZF as the repeat asks (R331). -/
theorem exitTest_iff (i : Instr) (r : Rep) (s : State) :
    exitTest i r s = true ↔ i.comparesStrings = true ∧ s.flags.ZF = decide (r = .repne) := by
  unfold exitTest
  cases i.comparesStrings
  · simp [neverExit]
  · cases r <;> simp [exitOnZF]

/-! ### One element -/

theorem src8_eq (s : State) : s.src8 = s.mem.read (phys s.sourceSeg (s.reg16 .si)) := by
  rw [State.src8, State.read8, dataSeg_ds]

theorem src16_eq (s : State) : s.src16 = s.read16 s.sourceSeg (s.reg16 .si) := by
  rw [State.src16, dataSeg_ds]

/-- The addresses that one element stores to. -/
def State.storedElement (s : State) (i : Instr) : List Nat :=
  if i.storesElement then
    if i.byteElement then [phys (s.seg .es) (s.reg16 .di)] else wordBytes (s.seg .es) (s.reg16 .di)
  else []

/-- The general registers that the transfer may write. -/
def transferRegs (i : Instr) : List Reg16 := if i = .lodsb ∨ i = .lodsw then [.ax] else []

/-- The transfer writes AX, its destination element, the flags or the record of port transactions, as its instruction
does. -/
theorem changes_transfer {i : Instr} (hi : i.isString = true) (s : State) :
    Changes s (transfer i s) (transferRegs i) (s.storedElement i) i.elementParts := by
  cases i with
  | movsb | stosb => exact changes_write8 s _ _ _
  | movsw | stosw => exact changes_write16 s _ _ _
  | lodsb => exact changes_setReg8 s .al _
  | lodsw => exact changes_setReg16 s .ax _
  | cmpsb | cmpsw | scasb | scasw => exact changes_setFlags s _
  | insb =>
    exact (changes_ioRead8 s _).trans (changes_write8 _ _ _ _) (by simp) (List.Subset.refl _) (List.Subset.refl _)
  | insw =>
    exact (changes_ioRead16 s _).trans (changes_write16 _ _ _ _) (by simp) (List.Subset.refl _) (List.Subset.refl _)
  | outsb | outsw => exact changes_logIo s _
  | _ => cases hi

theorem controlKept_transfer (i : Instr) (s : State) : ControlKept s.flags (transfer i s).flags := by
  unfold transfer
  split <;> exact ⟨rfl, rfl, rfl⟩

section
variable (s : State) (steps : Bool) (r : Reg16) (n : Nat)

@[simp] theorem stepIf_flags : (s.stepIf steps r n).flags = s.flags := by cases steps <;> rfl

theorem reg16_stepIf (q : Reg16) :
    (s.stepIf steps r n).reg16 q = if steps = true ∧ q = r then s.moved r n else s.reg16 q := by
  cases steps
  · simp [State.stepIf]
  · simp [State.stepIf, reg16_stepIndex]

theorem changes_stepIf : Changes s (s.stepIf steps r n) (if steps then [r] else []) [] [] := by
  cases steps
  · exact Changes.refl s
  · exact changes_stepIndex s r _

end

/-- Registers written after a change only add to its registers. -/
theorem Changes.andRegs {s t u : State} {regs regs' : List Reg16} {bytes : List Nat} {parts : List Part}
    (h : Changes s t regs bytes parts) (h' : Changes t u regs' [] []) : Changes s u (regs ++ regs') bytes parts :=
  h.trans h' (List.Subset.refl _) (by simp) (by simp)

/-- What one element has done: the indices it steps have moved by its size, LODSB keeps AH, the control flags are kept,
and nothing changes but what the instruction is listed for. -/
structure ElementDone (i : Instr) (s t : State) : Prop where
  si : i.stepsSi = true → t.reg16 .si = s.moved .si (elementBytes i 1)
  di : i.stepsDi = true → t.reg16 .di = s.moved .di (elementBytes i 1)
  ah : i = .lodsb → t.reg8 .ah = s.reg8 .ah
  control : ControlKept s.flags t.flags
  frame : Changes s t i.elementRegs (s.storedElement i) i.elementParts

theorem elementDone (i : Instr) (hi : i.isString = true) (s : State) : ElementDone i s (element i s) := by
  have hframe := changes_transfer hi s
  have hcontrol := controlKept_transfer i s
  have hindex (r : Reg16) (hr : r ≠ .ax) : (transfer i s).reg16 r = s.reg16 r :=
    hframe.regs r (by unfold transferRegs; split <;> simp [hr])
  have hmoved (r : Reg16) (hr : r ≠ .ax) (k : Nat) : (transfer i s).moved r k = s.moved r k :=
    moved_congr hcontrol.df (hindex r hr) k
  have hsi := changes_stepIf (transfer i s) i.stepsSi .si (elementBytes i 1)
  have hdi := changes_stepIf ((transfer i s).stepIf i.stepsSi .si (elementBytes i 1)) i.stepsDi .di (elementBytes i 1)
  refine ⟨fun h => ?_, fun h => ?_, fun h => ?_, ?_, ?_⟩
  · simp [element, reg16_stepIf, h, hmoved]
  · have hdi0 : ((transfer i s).stepIf i.stepsSi .si (elementBytes i 1)).reg16 .di = (transfer i s).reg16 .di := by
      simp [reg16_stepIf]
    rw [element, reg16_stepIf, if_pos ⟨h, rfl⟩, moved_congr (by simp) hdi0, hmoved .di (by simp)]
  · subst h
    exact State.reg8_setReg8 s .al .ah s.src8
  · simpa [element] using hcontrol
  · exact (hframe.andRegs hsi).andRegs hdi

/-- Settles O53: the indices and the frame are those of `elementDone`; each clause then says what its transfer put
where. -/
theorem stringElements : Obligations.StringElements :=
  ⟨fun s hs =>
      have h := elementDone .movsb rfl s
      ⟨_, exec_unrepeated rfl hs, (Memory.read_write_same _ _ _).trans (src8_eq s), h.si rfl, h.di rfl, h.frame⟩,
    fun s hs =>
      have h := elementDone .movsw rfl s
      ⟨_, exec_unrepeated rfl hs, src16_eq s ▸ holdsWord_write16 s _ _ _, h.si rfl, h.di rfl, h.frame⟩,
    fun s hs =>
      have h := elementDone .lodsb rfl s
      ⟨_, exec_unrepeated rfl hs, (State.reg8_setReg8_same s .al _).trans (src8_eq s), h.ah rfl, h.si rfl, h.frame⟩,
    fun s hs =>
      have h := elementDone .lodsw rfl s
      ⟨_, exec_unrepeated rfl hs, (State.holdsWord_iff s _ _ _).mpr (src16_eq s).symm, h.si rfl, h.frame⟩,
    fun s hs =>
      have h := elementDone .cmpsb rfl s
      ⟨_, exec_unrepeated rfl hs, src8_eq s ▸ subSets_subFlags (by decide) s.src8 s.dst8 false s.flags,
        h.si rfl, h.di rfl, h.frame⟩,
    fun s hs =>
      have h := elementDone .cmpsw rfl s
      ⟨_, exec_unrepeated rfl hs, src16_eq s ▸ subSets_subFlags (by decide) s.src16 s.dst16 false s.flags,
        h.si rfl, h.di rfl, h.frame⟩,
    fun s hs =>
      have h := elementDone .scasb rfl s
      ⟨_, exec_unrepeated rfl hs, subSets_subFlags (by decide) (s.reg8 .al) s.dst8 false s.flags, h.di rfl, h.frame⟩,
    fun s hs =>
      have h := elementDone .scasw rfl s
      ⟨_, exec_unrepeated rfl hs, subSets_subFlags (by decide) (s.reg16 .ax) s.dst16 false s.flags, h.di rfl, h.frame⟩,
    fun s hs =>
      have h := elementDone .stosb rfl s
      ⟨_, exec_unrepeated rfl hs, Memory.read_write_same _ _ _, h.di rfl, h.frame⟩,
    fun s hs =>
      have h := elementDone .stosw rfl s
      ⟨_, exec_unrepeated rfl hs, holdsWord_write16 s _ _ _, h.di rfl, h.frame⟩,
    fun s hs =>
      have h := elementDone .insb rfl s
      ⟨_, _, exec_unrepeated rfl hs, rfl, Memory.read_write_same _ _ _, h.di rfl, h.frame⟩,
    fun s hs =>
      have h := elementDone .insw rfl s
      ⟨_, _, exec_unrepeated rfl hs, rfl, holdsWord_write16 s _ _ _, h.di rfl, h.frame⟩,
    fun s hs =>
      have h := elementDone .outsb rfl s
      ⟨_, exec_unrepeated rfl hs, src8_eq s ▸ rfl, h.si rfl, h.frame⟩,
    fun s hs =>
      have h := elementDone .outsw rfl s
      ⟨_, exec_unrepeated rfl hs, src16_eq s ▸ rfl, h.si rfl, h.frame⟩⟩

end Sys2Proof.Machine
end

section
namespace Sys2Proof.Machine

/-! ### The repeat and LOCK fields under an operation (R332, 45_system.md R361)

Fields of R90 put into the state before an operation are there after it, and change nothing else: every operation reads
the override alone. -/

section
variable (s : State) (q : Pfx) (r : Reg16) (b : Reg8) (sr : SReg) (v w seg off : Word) (x y : Byte) (f : Flags) (k : Nat)
  (c : Bool)

@[simp] theorem setReg16_setPfx : (s.setPfx q).setReg16 r v = (s.setReg16 r v).setPfx q := rfl
@[simp] theorem setReg8_setPfx : (s.setPfx q).setReg8 b x = (s.setReg8 b x).setPfx q := rfl
@[simp] theorem setSeg_setPfx : (s.setPfx q).setSeg sr v = (s.setSeg sr v).setPfx q := rfl
@[simp] theorem setIp_setPfx : (s.setPfx q).setIp v = (s.setIp v).setPfx q := rfl
@[simp] theorem setFlags_setPfx : (s.setPfx q).setFlags f = (s.setFlags f).setPfx q := rfl
@[simp] theorem write8_setPfx : (s.setPfx q).write8 seg off x = (s.write8 seg off x).setPfx q := rfl
@[simp] theorem write16_setPfx : (s.setPfx q).write16 seg off v = (s.write16 seg off v).setPfx q := rfl
@[simp] theorem push16_setPfx : (s.setPfx q).push16 v = (s.push16 v).setPfx q := rfl
@[simp] theorem drop16_setPfx : (s.setPfx q).drop16 = s.drop16.setPfx q := rfl
@[simp] theorem top16_setPfx : (s.setPfx q).top16 = s.top16 := rfl
@[simp] theorem read8_setPfx : (s.setPfx q).read8 seg off = s.read8 seg off := rfl
@[simp] theorem read16_setPfx : (s.setPfx q).read16 seg off = s.read16 seg off := rfl
@[simp] theorem product8_setPfx : (s.setPfx q).product8 v c = (s.product8 v c).setPfx q := rfl
@[simp] theorem product16_setPfx (p : BitVec 32) : (s.setPfx q).product16 p c = (s.product16 p c).setPfx q := rfl
@[simp] theorem imulInto_setPfx : (s.setPfx q).imulInto r v w = (s.imulInto r v w).setPfx q := rfl
@[simp] theorem quotient8_setPfx : (s.setPfx q).quotient8 x y = (s.quotient8 x y).setPfx q := rfl
@[simp] theorem quotient16_setPfx : (s.setPfx q).quotient16 v w = (s.quotient16 v w).setPfx q := rfl
@[simp] theorem test8_setPfx : (s.setPfx q).test8 x y = (s.test8 x y).setPfx q := rfl
@[simp] theorem test16_setPfx : (s.setPfx q).test16 v w = (s.test16 v w).setPfx q := rfl
@[simp] theorem jumpBy_setPfx : (s.setPfx q).jumpBy v = (s.jumpBy v).setPfx q := rfl
@[simp] theorem jumpFar_setPfx : (s.setPfx q).jumpFar v w = (s.jumpFar v w).setPfx q := rfl
@[simp] theorem pushCsIp_setPfx : (s.setPfx q).pushCsIp = s.pushCsIp.setPfx q := rfl
@[simp] theorem popInto_setPfx : (s.setPfx q).popInto r = (s.popInto r).setPfx q := rfl
@[simp] theorem decCx_setPfx : (s.setPfx q).decCx = s.decCx.setPfx q := rfl
@[simp] theorem ioWrite8_setPfx : (s.setPfx q).ioWrite8 v x = (s.ioWrite8 v x).setPfx q := rfl
@[simp] theorem ioWrite16_setPfx : (s.setPfx q).ioWrite16 v w = (s.ioWrite16 v w).setPfx q := rfl
@[simp] theorem ioRead8_setPfx : (s.setPfx q).ioRead8 v = (s.ioRead8 v).setPfx q := rfl
@[simp] theorem ioRead16_setPfx : (s.setPfx q).ioRead16 v = (s.ioRead16 v).setPfx q := rfl
@[simp] theorem ioValue8_setPfx : (s.setPfx q).ioValue8 v = s.ioValue8 v := rfl
@[simp] theorem ioValue16_setPfx : (s.setPfx q).ioValue16 v = s.ioValue16 v := rfl
@[simp] theorem putDst8_setPfx : (s.setPfx q).putDst8 x = (s.putDst8 x).setPfx q := rfl
@[simp] theorem putDst16_setPfx : (s.setPfx q).putDst16 v = (s.putDst16 v).setPfx q := rfl
@[simp] theorem dst8_setPfx : (s.setPfx q).dst8 = s.dst8 := rfl
@[simp] theorem dst16_setPfx : (s.setPfx q).dst16 = s.dst16 := rfl

@[simp] theorem jumpIf_setPfx : (s.setPfx q).jumpIf c x = (s.jumpIf c x).setPfx q := by cases c <;> rfl

@[simp] theorem pushReg_setPfx : (s.setPfx q).pushReg r = (s.pushReg r).setPfx q := by
  simp only [State.pushReg]
  split <;> rfl

@[simp] theorem enterCopy_setPfx : enterCopy k (s.setPfx q) = (enterCopy k s).setPfx q := by
  induction k generalizing s with
  | zero => rfl
  | succ k ih => simp [enterCopy, ih]

/-! ### The operations on a resolved operand -/

section
variable (l : Loc Reg8) (m : Loc Reg16)

@[simp] theorem get8_setPfx : (s.setPfx q).get8 l = s.get8 l := by cases l <;> rfl
@[simp] theorem get16_setPfx : (s.setPfx q).get16 m = s.get16 m := by cases m <;> rfl
@[simp] theorem put8_setPfx : (s.setPfx q).put8 l x = (s.put8 l x).setPfx q := by cases l <;> rfl
@[simp] theorem put16_setPfx : (s.setPfx q).put16 m v = (s.put16 m v).setPfx q := by cases m <;> rfl

@[simp] theorem alu8_setPfx (op : AluOp) : (s.setPfx q).alu8 op l x = (s.alu8 op l x).setPfx q := by
  simp only [State.alu8]
  split <;> simp

@[simp] theorem alu16_setPfx (op : AluOp) : (s.setPfx q).alu16 op m v = (s.alu16 op m v).setPfx q := by
  simp only [State.alu16]
  split <;> simp

@[simp] theorem inc8_setPfx : (s.setPfx q).inc8 l = (s.inc8 l).setPfx q := by simp [State.inc8]
@[simp] theorem inc16_setPfx : (s.setPfx q).inc16 m = (s.inc16 m).setPfx q := by simp [State.inc16]
@[simp] theorem dec8_setPfx : (s.setPfx q).dec8 l = (s.dec8 l).setPfx q := by simp [State.dec8]
@[simp] theorem dec16_setPfx : (s.setPfx q).dec16 m = (s.dec16 m).setPfx q := by simp [State.dec16]

@[simp] theorem shift8_setPfx (op : ShiftOp) : (s.setPfx q).shift8 op l x = (s.shift8 op l x).setPfx q := by
  have hcount : (s.setPfx q).shiftCount x = s.shiftCount x := rfl
  simp only [State.shift8, hcount, get8_setPfx, put8_setPfx]
  split <;> rfl

@[simp] theorem shift16_setPfx (op : ShiftOp) : (s.setPfx q).shift16 op m x = (s.shift16 op m x).setPfx q := by
  have hcount : (s.setPfx q).shiftCount x = s.shiftCount x := rfl
  simp only [State.shift16, hcount, get16_setPfx, put16_setPfx]
  split <;> rfl

end

/-- Interrupt entry where no handler is registered: a handler would see the fields. -/
theorem interrupt_setPfx {s : State} (hs : s.handler = 0#256) (n : Byte) :
    (s.setPfx q).interrupt n = (s.interrupt n).setPfx q := by
  have hn : s.pushFrame.hasHandler n = false := by simp [State.hasHandler, hs]
  have hn' : (s.setPfx q).pushFrame.hasHandler n = false := hn
  simp only [State.interrupt, hn, hn']
  rfl

end

/-! ### Operands, under fields with the same override (30_encoding.md R96) -/

section
variable {s : State} {q : Pfx}

@[simp] theorem ea_setPfx (m : MemForm) : (s.setPfx q).ea m = s.ea m := by
  have hbase (b : EABase) : (s.setPfx q).eaBase b = s.eaBase b := by cases b <;> rfl
  cases m <;> simp [State.ea, hbase]

variable (hq : q.seg = s.pfx.seg)
include hq

@[simp] theorem dataSeg_setPfx (r : SReg) : (s.setPfx q).dataSeg r = s.dataSeg r := by simp [State.dataSeg, hq]

@[simp] theorem src8_setPfx : (s.setPfx q).src8 = s.src8 := by simp [State.src8, hq]
@[simp] theorem src16_setPfx : (s.setPfx q).src16 = s.src16 := by simp [State.src16, hq]

@[simp] theorem memSeg_setPfx (m : MemForm) : (s.setPfx q).memSeg m = s.memSeg m := dataSeg_setPfx hq _

@[simp] theorem loc_setPfx {R : Type} (e : RM R) : (s.setPfx q).loc e = s.loc e := by
  cases e <;> simp [State.loc, hq]

@[simp] theorem readEb_setPfx (e : Eb) : (s.setPfx q).readEb e = s.readEb e := by simp [State.readEb, hq]
@[simp] theorem readEw_setPfx (e : Ew) : (s.setPfx q).readEw e = s.readEw e := by simp [State.readEw, hq]
@[simp] theorem farOff_setPfx (m : MemForm) : (s.setPfx q).farOff m = s.farOff m := by simp [State.farOff, hq]
@[simp] theorem farSel_setPfx (m : MemForm) : (s.setPfx q).farSel m = s.farSel m := by simp [State.farSel, hq]

end

/-! ### An element under other repeat and LOCK fields -/

theorem transfer_setPfx (i : Instr) {s : State} {q : Pfx} (hq : q.seg = s.pfx.seg) :
    transfer i (s.setPfx q) = (transfer i s).setPfx q := by
  unfold transfer
  split <;> simp [hq]

theorem stepIf_setPfx (s : State) (q : Pfx) (steps : Bool) (r : Reg16) (n : Nat) :
    (s.setPfx q).stepIf steps r n = (s.stepIf steps r n).setPfx q := by
  cases steps <;> rfl

theorem element_setPfx (i : Instr) {s : State} {q : Pfx} (hq : q.seg = s.pfx.seg) :
    element i (s.setPfx q) = (element i s).setPfx q := by
  rw [element, transfer_setPfx i hq, stepIf_setPfx, stepIf_setPfx, element]

theorem exitTest_setPfx (i : Instr) (r : Rep) (s : State) (q : Pfx) : exitTest i r (s.setPfx q) = exitTest i r s := by
  rw [Bool.eq_iff_iff, exitTest_iff, exitTest_iff, State.setPfx_flags]

/-- The parts that an element may write are the flags and the record of port transactions. -/
theorem not_mem_elementParts (i : Instr) {p : Part} (hflags : p ≠ .flags) (hio : p ≠ .io) : p ∉ i.elementParts := by
  unfold Instr.elementParts
  split
  · simp [hflags]
  · split <;> simp [hio]

theorem not_mem_elementRegs (i : Instr) {r : Reg16} (hax : r ≠ .ax) (hsi : r ≠ .si) (hdi : r ≠ .di) :
    r ∉ i.elementRegs := by
  unfold Instr.elementRegs
  simp [hax, hsi, hdi]

theorem pfx_element {i : Instr} (hi : i.isString = true) (s : State) : (element i s).pfx = s.pfx :=
  (elementDone i hi s).frame.parts .pfx (not_mem_elementParts i nofun nofun)

theorem keepsCx_element {i : Instr} (hi : i.isString = true) : KeepsCx (element i) := fun s =>
  (elementDone i hi s).frame.regs .cx (not_mem_elementRegs i nofun nofun nofun)

theorem setPfx_self {s : State} {q : Pfx} (h : s.pfx = q) : s.setPfx q = s := h ▸ rfl

/-! ### One turn of the loop (R330, R331) -/

/-- Settles O54: with CX 0 the loop does nothing (`repLoop_done`); else it runs one element, counts CX down and tests for
the exit (`repLoop_step`), and what it leaves has the same repeat, so the loop on it is the instruction again. -/
theorem repeatedStringSteps : Obligations.RepeatedStringSteps := by
  intro i s r hi hs
  rw [exec_repeated hi hs]
  refine ⟨fun hcx => ⟨s, by rw [repLoop_done s _ _ _ hcx], Changes.refl s⟩, fun hcx => ?_⟩
  refine ⟨_, (exec_unrepeated hi rfl).trans (congrArg _ (element_setPfx i rfl)), ?_⟩
  extract_lets _ v done
  have hpfx : (elemStep (element i) s).pfx = s.pfx := pfx_element hi s
  have hv : v = elemStep (element i) s := setPfx_self hpfx
  have hexit : exitTest i r (elemStep (element i) s) = true ↔ done := exitTest_iff i r _
  rw [hv, repLoop_step s (keepsCx_element hi) _ hcx]
  refine ⟨fun hdone => ?_, fun hdone => ?_⟩
  · rw [if_pos (hexit.mpr hdone)]
  · rw [if_neg (mt hexit.mp hdone), exec_repeated hi (hpfx ▸ hs)]

end Sys2Proof.Machine
end

section
namespace Sys2Proof.Machine

/-! ### Any number of elements -/

theorem elementBytes_succ (i : Instr) (n : Nat) : elementBytes i (n + 1) = elementBytes i n + elementBytes i 1 := by
  unfold elementBytes
  split
  · rfl
  · omega

section
variable (s : State) (seg : Word) (r : Reg16) (n : Nat)

theorem mem_elements {a : Nat} : a ∈ s.elements seg r n ↔ ∃ k < n, phys seg (s.moved r k) = a := by
  simp [State.elements]

theorem elements_succ : s.elements seg r (n + 1) = s.elements seg r n ++ [phys seg (s.moved r n)] := by
  simp [State.elements, List.range_succ]

theorem wordElements_succ :
    s.wordElements seg r (n + 1) = s.wordElements seg r n ++ wordBytes seg (s.moved r (2 * n)) := by
  simp [State.wordElements, List.range_succ]

end

/-- The element stored where DI stands after `n` elements is the next of those stored. -/
theorem storedElements_succ {i : Instr} {s t : State} {n : Nat} (hes : t.seg .es = s.seg .es)
    (hdi : i.storesElement = true → t.reg16 .di = s.moved .di (elementBytes i n)) :
    s.storedElements i (n + 1) = s.storedElements i n ++ t.storedElement i := by
  unfold State.storedElements State.storedElement
  split
  case isTrue hstores =>
    rw [hdi hstores, hes, elementBytes]
    split
    · exact elements_succ s _ _ n
    · exact wordElements_succ s _ _ n
  case isFalse => rfl

theorem stepsDi_of_storesElement {i : Instr} (h : i.storesElement = true) : i.stepsDi = true := by
  cases i with
  | movsb | movsw | stosb | stosw | insb | insw => rfl
  | _ => cases h

/-- What `n` elements of a repeated string instruction have done, with CX counted down between them: nothing where `n`
is 0, and else what `ElementDone` says of one, `n` times. -/
structure Ran (i : Instr) (s t : State) (n : Nat) : Prop where
  zero : n = 0 → t = s
  si : i.stepsSi = true → t.reg16 .si = s.moved .si (elementBytes i n)
  di : i.stepsDi = true → t.reg16 .di = s.moved .di (elementBytes i n)
  ah : i = .lodsb → t.reg8 .ah = s.reg8 .ah
  control : ControlKept s.flags t.flags
  frame : Changes s t (.cx :: i.elementRegs) (s.storedElements i n) i.elementParts

theorem Ran.refl (i : Instr) (s : State) : Ran i s s 0 := by
  have hzero : elementBytes i 0 = 0 := by simp [elementBytes]
  refine ⟨fun _ => rfl, fun _ => ?_, fun _ => ?_, fun _ => rfl, ⟨rfl, rfl, rfl⟩, ?_⟩
  · rw [hzero, moved_zero]
  · rw [hzero, moved_zero]
  · exact (Changes.refl s).mono (by simp) (by simp) (by simp)

section
variable {i : Instr} {s t : State} {n : Nat} (h : Ran i s t n)
include h

theorem Ran.seg_eq (r : SReg) : t.seg r = s.seg r := by
  cases r with
  | es => exact h.frame.parts .es (not_mem_elementParts i nofun nofun)
  | cs => exact h.frame.parts .cs (not_mem_elementParts i nofun nofun)
  | ss => exact h.frame.parts .ss (not_mem_elementParts i nofun nofun)
  | ds => exact h.frame.parts .ds (not_mem_elementParts i nofun nofun)

theorem Ran.sourceSeg_eq : t.sourceSeg = s.sourceSeg := by
  have hpfx : t.pfx = s.pfx := h.frame.parts .pfx (not_mem_elementParts i nofun nofun)
  have hseg : t.seg = s.seg := funext h.seg_eq
  rw [State.sourceSeg, State.sourceSeg, hpfx, hseg]

/-- One more element. -/
theorem Ran.succ (hi : i.isString = true) : Ran i s (elemStep (element i) t) (n + 1) := by
  have one := elementDone i hi t
  have hcx : Changes t (elemStep (element i) t) (i.elementRegs ++ [.cx]) (t.storedElement i) i.elementParts :=
    one.frame.andRegs (changes_setReg16 (element i t) .cx _)
  have hstored : s.storedElements i (n + 1) = s.storedElements i n ++ t.storedElement i :=
    storedElements_succ (h.seg_eq .es) fun hst => h.di (stepsDi_of_storesElement hst)
  refine ⟨nofun, fun hsi => ?_, fun hdi => ?_, fun hah => (one.ah hah).trans (h.ah hah), ?_, ?_⟩
  · rw [elementBytes_succ, ← moved_add h.control.df (h.si hsi)]
    exact one.si hsi
  · rw [elementBytes_succ, ← moved_add h.control.df (h.di hdi)]
    exact one.di hdi
  · exact ⟨one.control.tf.trans h.control.tf, one.control.ifl.trans h.control.ifl, one.control.df.trans h.control.df⟩
  · exact h.frame.trans hcx (by simp) (hstored ▸ List.Subset.refl _) (by simp)

end

/-- Settles O55: whatever number of elements the loop runs (`repLoop_runs`), they have done what `Ran` says. -/
theorem repeatedStringsFinish : Obligations.RepeatedStringsFinish := by
  intro i s r hi hs
  obtain ⟨n, hran, hcount, hzero, hend⟩ := repLoop_runs s (keepsCx_element hi) (exitTest i r) (fun n t => Ran i s t n)
    (fun _ _ h => h.succ hi) (Ran.refl i s)
  refine ⟨_, n, exec_repeated hi hs, hcount, hzero, hend.imp_right (exitTest_iff i r _).mp, ⟨hran.si, hran.di⟩, hran.ah,
    hran.control, ?_⟩
  by_cases hn : n = 0
  · rw [hran.zero hn, if_pos hn, if_pos hn]
    exact (Changes.refl s).mono (by simp) (by simp) (by simp)
  · rw [if_neg hn, if_neg hn]
    exact hran.frame

/-! ### REP MOVSB and REP STOSB (R325, R330, R333) -/

/-- An instruction that does not compare runs CX elements (R330). What each element carries on, from `n` of them to
`n + 1`, holds at the end. -/
theorem repeated_completes {i : Instr} {s : State} {r : Rep} (hi : i.isString = true) (hc : i.comparesStrings = false)
    (hs : s.pfx.rep = some r) (P : Nat → State → Prop) (hP : P 0 s)
    (hstep : ∀ n t, n < (s.reg16 .cx).toNat → Ran i s t n → P n t → P (n + 1) (elemStep (element i) t)) :
    ∃ t, exec i s = .next t ∧ t.reg16 .cx = 0#16 ∧ Ran i s t (s.reg16 .cx).toNat ∧ P (s.reg16 .cx).toNat t := by
  obtain ⟨n, ⟨hran, hPn⟩, hcount, -, hend⟩ := repLoop_runs s (keepsCx_element hi) (exitTest i r)
    (fun n t => Ran i s t n ∧ (n ≤ (s.reg16 .cx).toNat → P n t))
    (fun n t ⟨h, hPn⟩ => ⟨h.succ hi, fun hn => hstep n t hn h (hPn (Nat.le_of_succ_le hn))⟩)
    ⟨Ran.refl i s, fun _ => hP⟩
  have hcx := hend.resolve_right fun hexit =>
    Bool.false_ne_true (hc.symm.trans ((exitTest_iff i r _).mp hexit).1)
  obtain rfl : n = (s.reg16 .cx).toNat := by simpa [hcx] using hcount
  exact ⟨_, exec_repeated hi hs, hcx, hran, hPn le_rfl⟩

/-- The first `n` byte elements at ES:DI, as they are addressed in `s`, hold in `t` what `f` gives. -/
def Stored (s : State) (f : Nat → Byte) (t : State) (n : Nat) : Prop :=
  ∀ k < n, t.mem.read (phys (s.seg .es) (s.moved .di k)) = f k

theorem Stored.zero (s : State) (f : Nat → Byte) (t : State) : Stored s f t 0 := nofun

/-- One more byte stored, at an offset that none of the earlier ones has. -/
theorem Stored.succ {s t u : State} {f : Nat → Byte} {n : Nat} (h : Stored s f t n) (hn : n < 0x10000)
    (hu : u.mem = t.mem.write (phys (s.seg .es) (s.moved .di n)) (f n)) : Stored s f u (n + 1) := by
  intro k hk
  rw [hu, Memory.read_write]
  obtain hlt | rfl := Nat.lt_succ_iff_lt_or_eq.mp hk
  · have hne : phys (s.seg .es) (s.moved .di k) ≠ phys (s.seg .es) (s.moved .di n) := fun heq =>
      hlt.ne (moved_inj s (hlt.trans hn) hn (phys_inj.mp heq))
    rw [if_neg hne, h k hlt]
  · rw [if_pos rfl]

/-- A source element that no destination element has overwritten is still the one of `s`. -/
theorem src8_of_ran {s t : State} {n : Nat} (h : Ran .movsb s t n)
    (hapart : phys s.sourceSeg (s.moved .si n) ∉ s.elements (s.seg .es) .di n) :
    t.src8 = s.mem.read (phys s.sourceSeg (s.moved .si n)) := by
  have hsi : t.reg16 .si = s.moved .si n := h.si rfl
  rw [src8_eq, h.sourceSeg_eq, hsi]
  exact h.frame.bytes _ hapart

/-- No byte of the `n` destination elements is one of the `n` source elements (R333). -/
def State.Apart (s : State) (n : Nat) : Prop := ∀ a ∈ s.elements (s.seg .es) .di n, a ∉ s.elements s.sourceSeg .si n

section
variable {s t : State} {n : Nat} (hn : n < (s.reg16 .cx).toNat)
include hn

/-- MOVSB stores the next source byte. -/
theorem Stored.movsb (hran : Ran .movsb s t n) (hapart : s.Apart (s.reg16 .cx).toNat)
    (h : Stored s (fun k => s.mem.read (phys s.sourceSeg (s.moved .si k))) t n) :
    Stored s (fun k => s.mem.read (phys s.sourceSeg (s.moved .si k))) (elemStep (element .movsb) t) (n + 1) := by
  have hdi : t.reg16 .di = s.moved .di n := hran.di rfl
  have hsrc : t.src8 = s.mem.read (phys s.sourceSeg (s.moved .si n)) := src8_of_ran hran fun hmem => by
    obtain ⟨k, hk, heq⟩ := (mem_elements ..).mp hmem
    exact hapart _ ((mem_elements ..).mpr ⟨k, hk.trans hn, heq⟩) ((mem_elements ..).mpr ⟨n, hn, rfl⟩)
  refine h.succ (hn.trans (s.reg16 .cx).isLt) ?_
  rw [← hsrc, ← hdi, ← hran.seg_eq .es]
  rfl

/-- STOSB stores AL, which no element changes. -/
theorem Stored.stosb (hran : Ran .stosb s t n) (h : Stored s (fun _ => s.reg8 .al) t n) :
    Stored s (fun _ => s.reg8 .al) (elemStep (element .stosb) t) (n + 1) := by
  have hdi : t.reg16 .di = s.moved .di n := hran.di rfl
  have hal : t.reg8 .al = s.reg8 .al := congrArg Word.lo (hran.frame.regs .ax nofun)
  refine h.succ (hn.trans (s.reg16 .cx).isLt) ?_
  rw [← hal, ← hdi, ← hran.seg_eq .es]
  rfl

end

/-- Settles O56: both run CX elements (`repeated_completes`), each of which stores the next byte (`Stored.movsb`,
`Stored.stosb`). -/
theorem repeatedBlockMoves : Obligations.RepeatedBlockMoves := by
  refine ⟨fun s r hs => ?movsb, fun s r hs => ?stosb⟩
  case movsb =>
    obtain ⟨t, ht, hcx, hran, hstored⟩ := repeated_completes (i := .movsb) rfl rfl hs
      (fun n t => s.Apart (s.reg16 .cx).toNat → Stored s (fun k => s.mem.read (phys s.sourceSeg (s.moved .si k))) t n)
      (fun _ => .zero s _ s) fun _ _ hn hran ih hapart => .movsb hn hran hapart (ih hapart)
    exact ⟨t, ht, hcx, hran.si rfl, hran.di rfl, hran.frame, hstored⟩
  case stosb =>
    obtain ⟨t, ht, hcx, hran, hstored⟩ := repeated_completes (i := .stosb) rfl rfl hs
      (fun n t => Stored s (fun _ => s.reg8 .al) t n) (.zero s _ s) fun _ _ => .stosb
    exact ⟨t, ht, hcx, hran.di rfl, hran.frame, hstored⟩

end Sys2Proof.Machine
end

section
namespace Sys2Proof.Machine

/-! ### Every instruction under other repeat and LOCK fields (R332, 45_system.md R361) -/

/-- The second outcome is the first, with the fields `q`. -/
def SameUnder (q : Pfx) (o o' : Result) : Prop := ∃ t, o = .next t ∧ o' = .next (t.setPfx q)

theorem SameUnder.next {q : Pfx} {t u : State} (h : u = t.setPfx q) : SameUnder q (.next t) (.next u) := ⟨t, rfl, h ▸ rfl⟩

/-- An instruction that raises on a condition. -/
theorem SameUnder.raiseIf {s : State} {q : Pfx} {c c' : Prop} [Decidable c] [Decidable c'] {o o' : Result}
    (hs : s.handler = 0#256) (n : Byte) (hc : c' ↔ c) (ho : SameUnder q o o') :
    SameUnder q (if c then .next (s.interrupt n) else o) (if c' then .next ((s.setPfx q).interrupt n) else o') := by
  by_cases h : c
  · rw [if_pos h, if_pos (hc.mpr h)]
    exact .next (interrupt_setPfx q hs n)
  · rw [if_neg h, if_neg (mt hc.mp h)]
    exact ho

/-- Every instruction but the bytes of R94 and the strings does the same under fields with the same override: the cases
named are those that raise, have fields read inside an operation of their own, or branch before they answer; all others
are built of the operations above. -/
theorem exec_sameUnder (i : Instr) {s : State} {q : Pfx} (hs : s.handler = 0#256) (hi : i.isPrefix = false)
    (hstring : i.isString = false) (hq : q.seg = s.pfx.seg) : SameUnder q (exec i s) (exec i (s.setPfx q)) := by
  cases i
  case segEs | segCs | segSs | segDs | lock | repne | rep => cases hi
  case movsb | movsw | lodsb | lodsw | cmpsb | cmpsw | scasb | scasw | stosb | stosw | insb | insw | outsb | outsw =>
    cases hstring
  case int3 | intIb | invalid => exact .next (interrupt_setPfx q hs _)
  case divEb | divEw | idivEb | idivEw =>
    exact .raiseIf hs _ (by simp [hq]) (.raiseIf hs _ (by simp [hq]) (.next (by simp [hq])))
  case aamIb => exact .raiseIf hs _ Iff.rfl (.next rfl)
  case cwd | daa | das | aaa | aas | aadIb | hlt => exact .next rfl
  case ret | retIw | retf | retfIw | iret => exact .next rfl
  case xchgAxCx | xchgAxDx | xchgAxBx | xchgAxSp | xchgAxBp | xchgAxSi | xchgAxDi => exact .next rfl
  case inAlIb | inAxIb | inAlDx | inAxDx => exact .next rfl
  case into =>
    cases hf : s.flags.OF
    · exact .next (by simp [hf])
    · exact .next (by simp [hf, interrupt_setPfx q hs])
  case enterIwIb size level =>
    refine .next ?_
    simp only [push16_setPfx, enterCopy_setPfx, State.reg16_setPfx]
    split <;> rfl
  case pushEw e => cases e <;> exact .next (by simp [hq])
  case boundGwM => exact .raiseIf hs _ (by simp [hq]) (.next rfl)
  all_goals exact .next (by simp [hq])

/-! ### The string instructions, under fields with the same repeat -/

theorem repLoop_setPfx {i : Instr} (hi : i.isString = true) (r : Rep) {q : Pfx} (n : Nat) {s : State}
    (hq : q.seg = s.pfx.seg) : repLoop (element i) (exitTest i r) n (s.setPfx q) =
      (repLoop (element i) (exitTest i r) n s).setPfx q := by
  induction n generalizing s with
  | zero => rfl
  | succ n ih =>
    have hnext : q.seg = (((element i s).setReg16 .cx ((element i s).reg16 .cx - 1#16))).pfx.seg := by
      simp [pfx_element hi, hq]
    simp only [repLoop, element_setPfx i hq, State.reg16_setPfx, setReg16_setPfx, exitTest_setPfx, ih hnext]
    split
    · rfl
    · split <;> rfl

theorem stringOp_setPfx {i : Instr} (hi : i.isString = true) {s : State} {q : Pfx} (hq : q.seg = s.pfx.seg)
    (hrep : q.rep = s.pfx.rep) : (s.setPfx q).stringOp (element i) (exitTest i) =
      (s.stringOp (element i) (exitTest i)).setPfx q := by
  simp only [State.stringOp, State.setPfx_pfx, hrep]
  split
  · exact element_setPfx i hq
  · exact repLoop_setPfx hi _ _ hq

/-- Settles O17: a string instruction reads the override and the repeat (`stringOp_setPfx`), every other the override
alone (`exec_sameUnder`); LOCK is read by none. -/
theorem repeatAndLockIgnored : Obligations.RepeatAndLockIgnored := by
  intro i s t q hs hi hseg hrep ht
  by_cases hstring : i.isString = true
  · have hsame : q.rep = s.pfx.rep := hrep.resolve_left (by simp [hstring])
    rw [exec_string hstring] at ht ⊢
    rw [stringOp_setPfx hstring hseg hsame]
    cases ht
    rfl
  · obtain ⟨u, hu, hq⟩ := exec_sameUnder i hs hi (by simpa using hstring) hseg
    cases hu.symm.trans ht
    exact hq

end Sys2Proof.Machine
end

section
namespace Sys2Proof.Machine

/-! ## The system family (45_system.md R350 to R360)

A single-flag instruction is one flag replaced in the flags of the state; HLT is `halt`; NOP, WAIT and ESC are the state
unchanged. -/

/-- Settles O52: the decoder is run on the ten encodings; a single-flag instruction writes the flags and nothing else
(`changes_setFlags`), HLT writes `halted` alone (`changes_halt`). -/
theorem singleFlagAndProcessorControl : Obligations.SingleFlagAndProcessorControl :=
  ⟨fun _ _ => rfl, fun _ _ => rfl, fun _ _ => rfl, fun _ _ => rfl, fun _ _ => rfl,
    fun _ _ => rfl, fun _ _ => rfl, fun _ _ => rfl, fun _ _ => rfl, fun _ _ => rfl,
    fun s => ⟨_, rfl, rfl, changes_setFlags s { s.flags with CF := false }⟩,
    fun s => ⟨_, rfl, rfl, changes_setFlags s { s.flags with CF := true }⟩,
    fun s => ⟨_, rfl, rfl, changes_setFlags s { s.flags with CF := !s.flags.CF }⟩,
    fun s => ⟨_, rfl, rfl, changes_setFlags s { s.flags with DF := false }⟩,
    fun s => ⟨_, rfl, rfl, changes_setFlags s { s.flags with DF := true }⟩,
    fun s => ⟨_, rfl, rfl, changes_setFlags s { s.flags with IF := false }⟩,
    fun s => ⟨_, rfl, rfl, changes_setFlags s { s.flags with IF := true }⟩,
    fun s => ⟨_, rfl, rfl, changes_halt s⟩,
    fun s => ⟨_, rfl, Changes.refl s⟩, fun s => ⟨_, rfl, Changes.refl s⟩, fun s _ _ _ => ⟨_, rfl, Changes.refl s⟩⟩

end Sys2Proof.Machine
end

section
namespace Sys2Proof.Machine

/-! ## What no step changes (46_ext186.md R380, 10_state.md R32) -/

/-- Settles O12: the frame of the step writes neither, the bytes of R94 keep the control state
(`control_execPrefixes`), and the instruction keeps ISA_186 and VM (`ControlEffect.parameters_kept`), a host handler's
answer included (`interrupt_parameters`). -/
theorem stepKeepsParameters : Obligations.StepKeepsParameters := by
  intro s t h
  obtain ⟨d, len, u, w, -, hu, hw, rfl⟩ := step_eq_next h
  have hc : u.control = (s.advance len).control := control_execPrefixes hu
  obtain ⟨hvm, hisa⟩ := (exec_effect hw).parameters_kept
  exact ⟨hisa.trans (congrArg Control.isa186 hc), hvm.trans (congrArg Control.vm hc)⟩

/-! ## Frames and bounds of the 80186 (46_ext186.md R381 to R383, R390, R391)

PUSHA is `pushed_pusha`, POPA and LEAVE are pops. For ENTER, `Pushed.enterCopy_links` says which words the copy pushes:
the links of the caller's frame that the pushes themselves do not reach. -/

/-! ### POPA, BOUND and LEAVE (R382, R383, R391) -/

theorem changes_popInto (s : State) {r : Reg16} (hr : r ≠ .sp) : Changes s (s.popInto r) [r, .sp] [] [] :=
  (popInto_spec s hr).2.2

theorem changes_popa {s t : State} (h : exec .popa s = .next t) :
    Changes s t [.di, .si, .bp, .sp, .bx, .dx, .cx, .ax] [] [] := by
  cases h
  have hsi := (changes_popInto s (r := .di) nofun).andRegs (changes_popInto _ (r := .si) nofun)
  have hskip := (hsi.andRegs (changes_popInto _ (r := .bp) nofun)).andRegs (changes_drop16 _)
  have hdx := (hskip.andRegs (changes_popInto _ (r := .bx) nofun)).andRegs (changes_popInto _ (r := .dx) nofun)
  have hax := (hdx.andRegs (changes_popInto _ (r := .cx) nofun)).andRegs (changes_popInto _ (r := .ax) nofun)
  exact hax.mono (by simp) (by simp) (by simp)

/-- BOUND goes on inside the inclusive signed bounds, and raises vector 5 outside (R383). -/
theorem bound_spec (s : State) (g : Reg16) (m : MemForm) : ∃ t, exec (.boundGwM g m) s = .next t ∧
    ((s.farOff m).toInt ≤ (s.reg16 g).toInt ∧ (s.reg16 g).toInt ≤ (s.farSel m).toInt → Changes s t [] [] []) ∧
    ((s.reg16 g).toInt < (s.farOff m).toInt ∨ (s.farSel m).toInt < (s.reg16 g).toInt → Raised s t 5#8) := by
  by_cases h : (s.reg16 g).toInt < (s.farOff m).toInt ∨ (s.farSel m).toInt < (s.reg16 g).toInt
  · exact ⟨_, if_pos h, fun hin => by omega, fun _ => raised_interrupt s 5#8⟩
  · exact ⟨_, if_neg h, fun _ => Changes.refl s, fun hout => absurd hout h⟩

theorem changes_leave {s t : State} (h : exec .leave s = .next t) : Changes s t [.sp, .bp] [] [] := by
  cases h
  exact (changes_setReg16 s .sp _).trans (changes_popInto _ nofun) (by simp) (by simp) (by simp)

/-! ### ENTER (R390) -/

theorem below_sub (s : State) (k : Nat) (w : Word) : s.below k - w = s.below (k + w.toNat) := by
  rw [State.below, State.below, BitVec.ofNat_add, BitVec.ofNat_toNat, BitVec.setWidth_eq, sub_add_eq_sub_sub]

/-- The offset of the `k`-th frame pointer below BP in the caller's frame (R390). -/
def State.link (s : State) (k : Nat) : Word := s.reg16 .bp - BitVec.ofNat 16 (2 * k)

theorem State.link_succ (s : State) (k : Nat) : s.link (k + 1) = s.link k - 2#16 := by
  rw [State.link, State.link, Nat.mul_succ, BitVec.ofNat_add, sub_add_eq_sub_sub]

/-- The `k`-th link of the caller's frame is the word `v`, and `n` words pushed do not overlap it. -/
structure State.KeepsLink (s : State) (n k : Nat) (v : Word) : Prop where
  holds : s.HoldsWord (s.seg .ss) (s.link k) v
  apart : ∀ a ∈ wordBytes (s.seg .ss) (s.link k), a ∉ s.stackBytes (2 * n)

theorem State.stackBytes_subset (s : State) {m n : Nat} (h : m ≤ n) : s.stackBytes m ⊆ s.stackBytes n :=
  List.map_subset _ (List.range_subset.mpr h)

/-- After at most `n` words pushed, such a link still reads as it did. -/
theorem Pushed.read16_link {s t : State} {vs : List Word} {regs : List Reg16} {n k : Nat} {v : Word}
    (h : Pushed s t vs regs []) (hn : vs.length ≤ n) (hv : s.KeepsLink n k v) : t.read16 (t.seg .ss) (s.link k) = v := by
  have hkept (a : Nat) (ha : a ∈ wordBytes (s.seg .ss) (s.link k)) : t.mem.read a = s.mem.read a :=
    h.2.2.bytes a fun hmem => hv.apart a ha (s.stackBytes_subset (by omega) hmem)
  obtain ⟨hlo, hhi⟩ := hv.holds
  rw [h.seg_ss nofun]
  refine (State.holdsWord_iff _ _ _ _).mp ⟨?_, ?_⟩
  · rw [hkept _ (by simp [wordBytes]), hlo]
  · rw [hkept _ (by simp [wordBytes]), hhi]

/-- The copy pushes `n` words. With BP one word above the link of the next slot, each is the link of its own slot, if
the pushes leave that link alone (R390). -/
theorem Pushed.enterCopy_links {s t : State} {vs : List Word} {m : Nat} (n : Nat) (h : Pushed s t vs [.bp] [])
    (hbp : t.reg16 .bp - 2#16 = s.link vs.length) (hn : vs.length + n ≤ m) (hm : m ≤ 0x4000) :
    ∃ ws, ws.length = n ∧ Pushed s (Machine.enterCopy n t) (vs ++ ws) [.bp] [] ∧
      ∀ k v, vs.length ≤ k → k < vs.length + n → s.KeepsLink m k v → (vs ++ ws)[k]? = some v := by
  induction n generalizing t vs with
  | zero => exact ⟨[], rfl, (List.append_nil vs).symm ▸ h, fun k v hk hlt => by omega⟩
  | succ n ih =>
    have hset := h.setReg16 (r := .bp) nofun (by simp) (t.reg16 .bp - 2#16)
    have hbp' : (t.setReg16 .bp (t.reg16 .bp - 2#16)).reg16 .bp = s.link vs.length := hbp
    obtain ⟨ws, hlen, hpush, hlinks⟩ := ih (hset.pushNext _ nofun (by omega))
      (by simp [hbp, State.link_succ]) (by simp; omega)
    simp only [List.append_assoc, List.singleton_append, List.length_append, List.length_singleton] at hpush hlinks
    refine ⟨_ :: ws, by simp [hlen], hpush, fun k v hk hlt hv => ?_⟩
    obtain rfl | hk := hk.eq_or_lt
    · rw [List.getElem?_append_right le_rfl, Nat.sub_self, List.getElem?_cons_zero, hbp',
        hset.read16_link (by omega) hv]
    · exact hlinks k v hk (by omega) hv

/-- How many words ENTER pushes at a level: BP; at a level other than 0 also the links and the address of the first word
(R390). -/
def enterWords (level : Byte) : Nat := if level.toNat % 32 = 0 then 1 else level.toNat % 32 + 1

/-- The `n` words that ENTER pushes, from `s` (R390): BP first, the address of that word last, the links between. -/
structure State.EnterWords (s : State) (n : Nat) (vs : List Word) : Prop where
  length : vs.length = n
  first : vs[0]? = some (s.reg16 .bp)
  last : 1 < n → vs[n - 1]? = some (s.below 2)
  links : ∀ k v, 1 ≤ k → k < n - 1 → s.KeepsLink n k v → vs[k]? = some v

theorem exec_enter_words (s : State) (size : Word) (level : Byte) : ∃ vs u, s.EnterWords (enterWords level) vs ∧
    Pushed s u vs [.bp] [] ∧
    exec (.enterIwIb size level) s = .next ((u.setReg16 .bp (s.below 2)).setReg16 .sp (u.reg16 .sp - size)) := by
  have hbp : Pushed s (s.push16 (s.reg16 .bp)) [s.reg16 .bp] [.bp] [] := (pushed_push16 s _).mono (by simp)
  have harm : exec (.enterIwIb size level) s = execEnterIwIb size level s := rfl
  simp only [harm, execEnterIwIb, hbp.1, enterWords]
  split
  case isTrue => exact ⟨_, _, ⟨rfl, rfl, nofun, by omega⟩, hbp, rfl⟩
  case isFalse h =>
    obtain ⟨ws, hlen, hpush, hlinks⟩ := hbp.enterCopy_links (m := level.toNat % 32 + 1) (level.toNat % 32 - 1) rfl
      (by simp; omega) (by omega)
    rw [List.singleton_append] at hpush hlinks
    have hws : (s.reg16 .bp :: ws).length = level.toNat % 32 := by rw [List.length_cons, hlen]; omega
    refine ⟨s.reg16 .bp :: ws ++ [s.below 2], _, ⟨?_, rfl, fun _ => ?_, fun k v hk hlt hv => ?_⟩,
      hpush.pushNext _ nofun (by omega), rfl⟩
    · rw [List.length_append, hws]
      rfl
    · rw [Nat.add_sub_cancel, ← hws]
      exact List.getElem?_concat_length
    · rw [List.getElem?_append_left (by omega)]
      exact hlinks k v hk (by rw [List.length_singleton]; omega) hv

/-- ENTER, from the words it pushes (R390). -/
theorem enter_spec (s : State) (size : Word) (level : Byte) : ∃ t, exec (.enterIwIb size level) s = .next t ∧
    t.reg16 .bp = s.below 2 ∧ t.reg16 .sp = s.below (2 * enterWords level + size.toNat) ∧
    t.HoldsWord (s.seg .ss) (s.below 2) (s.reg16 .bp) ∧
    (1 < enterWords level → t.HoldsWord (s.seg .ss) (s.below (2 * enterWords level)) (s.below 2)) ∧
    (∀ k v, 1 ≤ k → k < enterWords level - 1 → s.KeepsLink (enterWords level) k v →
      t.HoldsWord (s.seg .ss) (s.below (2 * k + 2)) v) ∧
    Changes s t [.bp, .sp] (s.stackBytes (2 * enterWords level)) [] := by
  obtain ⟨vs, u, hvs, ⟨hsp, hwords, hframe⟩, he⟩ := exec_enter_words s size level
  rw [hvs.length] at hsp hframe
  refine ⟨_, he, rfl, ?_, hwords 0 _ hvs.first, fun h => ?_, fun k v hk hlt hv => hwords k v (hvs.links k v hk hlt hv),
    hframe.trans (changes_setReg16_setReg16 u .bp .sp _ _) (by simp) (by simp) (by simp)⟩
  · rw [State.reg16_setReg16_same, hsp, below_sub]
  · have hslot : 2 * enterWords level = 2 * (enterWords level - 1) + 2 := by omega
    rw [hslot]
    exact hwords _ _ (hvs.last h)

/-- Settles O57: PUSHA by `pushed_pusha`, POPA by `reg16_popa`, LEAVE by `leave_regs` and the frames above; BOUND is
`bound_spec` and ENTER `enter_spec`. -/
theorem frameAndBoundForms : Obligations.FrameAndBoundForms := by
  refine ⟨fun s => ⟨_, rfl, pushed_pusha rfl⟩, fun s => ?popa, bound_spec, fun s size level => ?enter,
    fun s => ⟨_, rfl, (leave_regs rfl).1, (leave_regs rfl).2, changes_leave rfl⟩⟩
  case popa =>
    have hr := reg16_popa (t := s) rfl
    exact ⟨_, rfl, hr .di, hr .si, hr .bp, hr .bx, hr .dx, hr .cx, hr .ax, hr .sp, changes_popa rfl⟩
  case enter =>
    obtain ⟨t, he, hbp, hsp, hfirst, hlast, hlinks, hframe⟩ := enter_spec s size level
    exact ⟨t, he, hbp, hsp, hfirst, hlast, fun k v hk hlt hv ha => hlinks k v hk hlt ⟨hv, ha⟩, hframe⟩

end Sys2Proof.Machine
end

section
namespace Sys2Proof.Machine

/-! ## The host's operations (60_exceptions.md R416, 70_reset_and_hazards.md R450, R452)

A vector's entry is four bytes of memory in a row (`State.HasVector`); `register` writes them and one bit of the handler
table. -/

/-- Settles O10: memory is empty at `State.reset` (`reset_memory_wf`), and `hostReset` takes it over as it is; VM and
the bytes of R94 are those of `State.reset`. -/
theorem resetMeetsInv : Obligations.ResetMeetsInv :=
  ⟨⟨reset_memory_wf, rfl, rfl⟩, fun _ hmem => ⟨hmem, rfl, rfl⟩⟩

theorem seg_startContext (s : State) (c : Context) (r : SReg) :
    (s.startContext c).seg r = if r = .cs then c.codeSegment else c.dataSegment := by
  cases r <;> rfl

theorem changes_startContext (s : State) (c : Context) :
    Changes s (s.startContext c) [] [] [.es, .cs, .ss, .ds, .ip, .halted] := by
  refine ⟨fun _ _ => rfl, fun _ _ => rfl, fun p hp => ?_⟩
  cases p
  case flags | vm | handler | isa186 | pfx | io => rfl
  case es | cs | ss | ds | ip | halted => exact absurd hp (by decide)

/-- The entry of vector `n` is `segment:offset`, the offset first and each word low byte first (20_memory.md R75). -/
structure State.HasVector (s : State) (n : Byte) (segment offset : Word) : Prop where
  offsetLo : s.mem.read (4 * n.toNat) = Word.lo offset
  offsetHi : s.mem.read (4 * n.toNat + 1) = Word.hi offset
  segmentLo : s.mem.read (4 * n.toNat + 2) = Word.lo segment
  segmentHi : s.mem.read (4 * n.toNat + 3) = Word.hi segment

section
variable (s : State) (n : Byte) (segment offset : Word)

theorem read_setVector (a : Nat) : (s.setVector n segment offset).mem.read a =
    if a = 4 * n.toNat + 3 then Word.hi segment else if a = 4 * n.toNat + 2 then Word.lo segment
    else if a = 4 * n.toNat + 1 then Word.hi offset else if a = 4 * n.toNat then Word.lo offset else s.mem.read a := by
  simp only [State.setVector, Memory.read_write]

theorem hasVector_setVector : (s.setVector n segment offset).HasVector n segment offset := by
  constructor <;> simp [read_setVector]

theorem changes_setVector : Changes s (s.setVector n segment offset) []
    [4 * n.toNat, 4 * n.toNat + 1, 4 * n.toNat + 2, 4 * n.toNat + 3] [] := by
  refine ⟨fun _ _ => rfl, fun a ha => ?_, fun p _ => by cases p <;> rfl⟩
  simp only [List.mem_cons, List.not_mem_nil, or_false, not_or] at ha
  obtain ⟨h0, h1, h2, h3⟩ := ha
  rw [read_setVector, if_neg h3, if_neg h2, if_neg h1, if_neg h0]

variable (handler : Bool)

theorem hasVector_register : (s.register n segment offset handler).HasVector n segment offset := by
  obtain ⟨h0, h1, h2, h3⟩ := hasVector_setVector s n segment offset
  exact ⟨h0, h1, h2, h3⟩

/-- The mask of `register` has one bit, that of its vector. -/
theorem hasHandler_register (m : Byte) : (s.register n segment offset handler).hasHandler m =
    if m = n then handler else s.hasHandler m := by
  have hbit : (BitVec.twoPow 256 n.toNat).getLsbD m.toNat = decide (m = n) := by
    simp [BitVec.getLsbD_twoPow, n.isLt, ← BitVec.toNat_inj, eq_comm]
  have hm : m.toNat < 256 := m.isLt
  have hkept : (s.setVector n segment offset).handler = s.handler := rfl
  simp only [State.hasHandler, State.register, hkept]
  cases handler
  case false =>
    simp only [Bool.false_eq_true, if_false, BitVec.getLsbD_and, BitVec.getLsbD_not, hbit, decide_eq_true hm]
    by_cases h : m = n <;> simp [h]
  case true =>
    simp only [if_true, BitVec.getLsbD_or, hbit]
    by_cases h : m = n <;> simp [h]

theorem changes_register : Changes s (s.register n segment offset handler) []
    [4 * n.toNat, 4 * n.toNat + 1, 4 * n.toNat + 2, 4 * n.toNat + 3] [.handler] := by
  obtain ⟨hregs, hbytes, hparts⟩ := changes_setVector s n segment offset
  refine ⟨hregs, hbytes, fun p hp => ?_⟩
  have hsame := hparts p List.not_mem_nil
  cases p
  case handler => exact absurd hp (by decide)
  all_goals exact hsame

end

/-- Settles O23: a reset leaves `State.reset` (`resetState`) but for memory and ISA_186; `execute` and `register` by
what they set and by their frames. -/
theorem hostOperations : Obligations.HostOperations := by
  obtain ⟨hreg, hseg, -, himage, -⟩ := resetState
  refine ⟨fun s => ⟨hreg, hseg, rfl, himage, rfl, rfl, rfl, rfl, rfl⟩,
    fun s c => ⟨rfl, rfl, fun r hr => ?context, rfl, changes_startContext s c⟩, fun s v seg off h => ?register⟩
  case context => rw [seg_startContext, if_neg hr]
  case register =>
    obtain ⟨h0, h1, h2, h3⟩ := hasVector_register s v seg off h
    exact ⟨h0, h1, h2, h3, hasHandler_register s v seg off h, changes_register s v seg off h⟩

/-! ## The default stub (60_exceptions.md R417)

The entry leaves CS:IP at the stub, so the next step is an IRET (`step_iret`), and the frame of the two is that of an
entry undone (`Vectored.changes_of_returned`). -/

/-- An entry goes to what the vector names after the pushes (R413). -/
theorem Vectored.target {s t : State} {n : Byte} {segment offset : Word} (h : Vectored s t n)
    (hv : t.HasVector n segment offset) : t.seg .cs = segment ∧ t.ip = offset := by
  obtain ⟨-, -, hip, hcs⟩ := h
  rw [hip, hcs, hv.offsetLo, hv.offsetHi, hv.segmentLo, hv.segmentHi]
  exact ⟨Word.ofBytes_lo_hi segment, Word.ofBytes_lo_hi offset⟩

theorem vectored_interrupt {s : State} {n : Byte} (hn : s.handler.getLsbD n.toNat = false) :
    Vectored s (s.interrupt n) n := by
  obtain ⟨hhandler, -⟩ | ⟨-, hvectored⟩ := raised_interrupt s n
  · exact absurd (hn.symm.trans hhandler) Bool.false_ne_true
  · exact hvectored

theorem fetch_eq_cons (s : State) : s.fetch = s.read8 (s.seg .cs) s.ip :: s.fetchFrom 1 (maxLength - 1) := by
  have hip : s.ip + BitVec.ofNat 16 0 = s.ip := BitVec.add_zero s.ip
  exact congrArg (s.read8 (s.seg .cs) · :: s.fetchFrom 1 (maxLength - 1)) hip

/-- The IRET sequence overwrites IP and never reads it (43_control_transfer.md R300). -/
theorem iret_setIp (s : State) (v : Word) : (s.setIp v).iret = s.iret := by
  have htop : (s.setIp v).top16 = s.top16 := rfl
  have hpop : (s.setIp v).drop16.setIp s.top16 = s.drop16.setIp s.top16 := rfl
  simp only [State.iret, htop, hpop]

theorem iret_setPfx (s : State) (q : Pfx) : (s.setPfx q).iret = s.iret.setPfx q := by
  simp only [State.iret, top16_setPfx, drop16_setPfx, setIp_setPfx, setSeg_setPfx, setFlags_setPfx]

/-- Of the two things that a step does before the instruction, an IRET sees neither. -/
theorem endInstr_iret_advance (s : State) (len : Nat) : (s.advance len).iret.endInstr = s.iret.endInstr := by
  rw [State.advance, iret_setIp, iret_setPfx]
  rfl

/-- The step of a machine at a byte CFH. -/
theorem step_iret {s : State} (hs : s.halted = false) (hb : s.read8 (s.seg .cs) s.ip = 0xCF#8) :
    step s = .next s.iret.endInstr := by
  have hd : decode s.isa186 s.fetch = .ok (⟨[], .iret⟩, s.fetchFrom 1 (maxLength - 1)) := by
    rw [fetch_eq_cons, hb]
    rfl
  rw [step_of_decodeNext hs (decodeNext_of_decode hd)]
  exact congrArg Host.Outcome.next (endInstr_iret_advance s _)

/-- Settles O60: the pushes leave the vector and the stub as they are, so the entry goes to the stub (`Vectored.target`)
and the step there undoes it (`step_iret`, `Vectored.changes_of_returned`). -/
theorem defaultVectorReturns : Obligations.DefaultVectorReturns := by
  intro s t u n stubSeg stubOff hs hn h0 h1 h2 h3 hstub hstubApart hvectorApart ht hu
  cases ht
  have hentry : Vectored s (s.interrupt n) n := vectored_interrupt hn
  have ⟨⟨_, _, hframe⟩, _⟩ := hentry
  have hvector : (s.interrupt n).HasVector n stubSeg stubOff :=
    ⟨(hframe.bytes _ (hvectorApart 0 (by decide))).trans h0, (hframe.bytes _ (hvectorApart 1 (by decide))).trans h1,
      (hframe.bytes _ (hvectorApart 2 (by decide))).trans h2, (hframe.bytes _ (hvectorApart 3 (by decide))).trans h3⟩
  obtain ⟨hcs, hip⟩ := hentry.target hvector
  have hbyte : (s.interrupt n).read8 ((s.interrupt n).seg .cs) (s.interrupt n).ip = 0xCF#8 := by
    rw [hcs, hip]
    exact (hframe.bytes _ hstubApart).trans hstub
  have hhalted : (s.interrupt n).halted = false := Eq.trans (hframe.parts .halted (by decide)) hs
  rw [step_iret hhalted hbyte] at hu
  cases hu
  exact (hentry.changes_of_returned (returned_iret _)).trans (changes_setPfx _ _) (by simp) (by simp) (by simp)

end Sys2Proof.Machine
end
